-- ==== Sys2Proof/Word.lean ====
section
/-! DEFINITION. The word and byte types of the LLMP-16 (R7: every register, stack cell and immediate is 16 bits; R50:
memory is bytes). -/

namespace Sys2Proof

/-- A 16-bit register, I/O register, address or instruction word (R7, R8). -/
abbrev Word := BitVec 16

/-- One byte of memory (R50). -/
abbrev Byte := BitVec 8

end Sys2Proof
end

