-- ==== Sys2Proof/Config.lean ====
section
/-! DEFINITION. What an implementation fixes: the bank counts, which the spec leaves OPEN (R11, D26). The spec leaves no
result of any instruction open, so there is no free value here. -/

namespace Sys2Proof

/-- The number of banks of each backing kind, OPEN parameters of the machine (R11). The spec asks that each be at least 1;
`BankCounts.wf` says so. -/
structure BankCounts where
  /-- `N_ROM_BANKS` -/
  rom : Nat
  /-- `N_DISK_BANKS` -/
  disk : Nat
  /-- `N_RAM_BANKS` -/
  ram : Nat
  deriving DecidableEq, Repr

/-- Each count is at least 1 (R11). -/
abbrev BankCounts.wf (b : BankCounts) : Prop := 1 ≤ b.rom ∧ 1 ≤ b.disk ∧ 1 ≤ b.ram

/-- DESIGN CHOICE (log entry 2): the counts `State.reset` takes, the ones the spec's own test vectors assume
(95_test_vectors.md). Statements hold for every count. -/
def BankCounts.testVectors : BankCounts := { rom := 4, disk := 1, ram := 2 }

end Sys2Proof
end

