-- ==== Sys2Proof/Syntax.lean ====
section
/-! DEFINITION. The instructions of spec/opcode_table.json. A constructor stands for each mnemonic of the table; the table's
rows named UNDEF, which share one effect, are grouped by instruction class, the operand of the constructor telling the rows of
a class apart (log entry 5). Fields an instruction's rule does not use are ignored by decoding (R93, R94), so no constructor
holds them (log entry 6). -/

namespace Sys2Proof

/-- A register selector, naming R0 to R15 (R32). -/
abbrev RegIx := Fin 16

/-- A port number or a register index of the I/O space (R43, R94). -/
abbrev IoIx := Fin 16

/-- The conditions of R101 and R230, in the order of their codes. -/
inductive Cond where
  | al | eq | ne | cs | cc | vs | vc | gt | lt | ge | le | hi | ls | mi | pl | nv
  deriving DecidableEq, Repr

/-- The instructions. `x`, `y` are the selectors of R90, `imm` and `ext` the extension words of R91, `n` a shift amount,
`p` and `r` the port and register index of R94. -/
inductive Instr where
  /-- `NOP` (R120) -/
  | nop
  /-- `HALT` (R121) -/
  | halt
  /-- `RET` (R122) -/
  | ret
  /-- `RETI` (R123) -/
  | reti
  /-- `MOV Rx, Ry` (R130) -/
  | mov (x : RegIx) (y : RegIx)
  /-- `MOVI Rx, #imm` (R131) -/
  | movi (x : RegIx) (imm : Word)
  /-- `ADD Rx, Ry` (R150) -/
  | add (x : RegIx) (y : RegIx)
  /-- `SUB Rx, Ry` (R151) -/
  | sub (x : RegIx) (y : RegIx)
  /-- `MUL Rx, Ry` (R152) -/
  | mul (x : RegIx) (y : RegIx)
  /-- `DIV Rx, Ry` (R153) -/
  | div (x : RegIx) (y : RegIx)
  /-- `MOD Rx, Ry` (R154) -/
  | mod (x : RegIx) (y : RegIx)
  /-- `AND Rx, Ry` (R155) -/
  | and (x : RegIx) (y : RegIx)
  /-- `OR Rx, Ry` (R156) -/
  | or (x : RegIx) (y : RegIx)
  /-- `XOR Rx, Ry` (R157) -/
  | xor (x : RegIx) (y : RegIx)
  /-- `CMP Rx, Ry` (R158) -/
  | cmp (x : RegIx) (y : RegIx)
  /-- `TST Rx, Ry` (R159) -/
  | tst (x : RegIx) (y : RegIx)
  /-- `ADDI Rx, #imm` (R160) -/
  | addi (x : RegIx) (imm : Word)
  /-- `SUBI Rx, #imm` (R161) -/
  | subi (x : RegIx) (imm : Word)
  /-- `MULI Rx, #imm` (R162) -/
  | muli (x : RegIx) (imm : Word)
  /-- `DIVI Rx, #imm` (R163) -/
  | divi (x : RegIx) (imm : Word)
  /-- `MODI Rx, #imm` (R164) -/
  | modi (x : RegIx) (imm : Word)
  /-- `ANDI Rx, #imm` (R165) -/
  | andi (x : RegIx) (imm : Word)
  /-- `ORI Rx, #imm` (R166) -/
  | ori (x : RegIx) (imm : Word)
  /-- `XORI Rx, #imm` (R167) -/
  | xori (x : RegIx) (imm : Word)
  /-- `CMPI Rx, #imm` (R168) -/
  | cmpi (x : RegIx) (imm : Word)
  /-- `TSTI Rx, #imm` (R169) -/
  | tsti (x : RegIx) (imm : Word)
  /-- `INC Rx` (R183) -/
  | inc (x : RegIx)
  /-- `DEC Rx` (R184) -/
  | dec (x : RegIx)
  /-- `NOT Rx` (R185) -/
  | not (x : RegIx)
  /-- `NEG Rx` (R186) -/
  | neg (x : RegIx)
  /-- `SHL Rx, Ry` (R187) -/
  | shl (x : RegIx) (y : RegIx)
  /-- `SHR Rx, Ry` (R188) -/
  | shr (x : RegIx) (y : RegIx)
  /-- `SAR Rx, Ry` (R189) -/
  | sar (x : RegIx) (y : RegIx)
  /-- `SHLI Rx, #n` (R190) -/
  | shli (x : RegIx) (n : BitVec 4)
  /-- `SHRI Rx, #n` (R191) -/
  | shri (x : RegIx) (n : BitVec 4)
  /-- `SARI Rx, #n` (R192) -/
  | sari (x : RegIx) (n : BitVec 4)
  /-- `LD Rx, [Ry]` (R201) -/
  | ld (x : RegIx) (y : RegIx)
  /-- `ST Rx, [Ry]` (R202) -/
  | st (x : RegIx) (y : RegIx)
  /-- `LDB Rx, [Ry]` (R203) -/
  | ldb (x : RegIx) (y : RegIx)
  /-- `STB Rx, [Ry]` (R204) -/
  | stb (x : RegIx) (y : RegIx)
  /-- `LDA Rx, [a]`, `a = ext` (R205) -/
  | lda (x : RegIx) (ext : Word)
  /-- `STA Rx, [a]`, `a = ext` (R206) -/
  | sta (x : RegIx) (ext : Word)
  /-- `LDBA Rx, [a]`, `a = ext` (R207) -/
  | ldba (x : RegIx) (ext : Word)
  /-- `STBA Rx, [a]`, `a = ext` (R208) -/
  | stba (x : RegIx) (ext : Word)
  /-- `STIA #imm, [a]`, `a = ext` (R209) -/
  | stia (imm : Word) (ext : Word)
  /-- `PUSH Rx` (R221) -/
  | push (x : RegIx)
  /-- `POP Rx` (R222) -/
  | pop (x : RegIx)
  /-- `PUSHF` (R223) -/
  | pushf
  /-- `POPF` (R224) -/
  | popf
  /-- `JMPR Rx` (R232) -/
  | jmpr (x : RegIx)
  /-- `JEQR Rx` (R232) -/
  | jeqr (x : RegIx)
  /-- `JNER Rx` (R232) -/
  | jner (x : RegIx)
  /-- `JCSR Rx` (R232) -/
  | jcsr (x : RegIx)
  /-- `JCCR Rx` (R232) -/
  | jccr (x : RegIx)
  /-- `JVSR Rx` (R232) -/
  | jvsr (x : RegIx)
  /-- `JVCR Rx` (R232) -/
  | jvcr (x : RegIx)
  /-- `JGTR Rx` (R232) -/
  | jgtr (x : RegIx)
  /-- `JLTR Rx` (R232) -/
  | jltr (x : RegIx)
  /-- `JGER Rx` (R232) -/
  | jger (x : RegIx)
  /-- `JLER Rx` (R232) -/
  | jler (x : RegIx)
  /-- `JHIR Rx` (R232) -/
  | jhir (x : RegIx)
  /-- `JLSR Rx` (R232) -/
  | jlsr (x : RegIx)
  /-- `JMIR Rx` (R232) -/
  | jmir (x : RegIx)
  /-- `JPLR Rx` (R232) -/
  | jplr (x : RegIx)
  /-- `JNVR Rx` (R232) -/
  | jnvr (x : RegIx)
  /-- `JMP a`, `a = ext` (R233) -/
  | jmp (ext : Word)
  /-- `JEQ a`, `a = ext` (R233) -/
  | jeq (ext : Word)
  /-- `JNE a`, `a = ext` (R233) -/
  | jne (ext : Word)
  /-- `JCS a`, `a = ext` (R233) -/
  | jcs (ext : Word)
  /-- `JCC a`, `a = ext` (R233) -/
  | jcc (ext : Word)
  /-- `JVS a`, `a = ext` (R233) -/
  | jvs (ext : Word)
  /-- `JVC a`, `a = ext` (R233) -/
  | jvc (ext : Word)
  /-- `JGT a`, `a = ext` (R233) -/
  | jgt (ext : Word)
  /-- `JLT a`, `a = ext` (R233) -/
  | jlt (ext : Word)
  /-- `JGE a`, `a = ext` (R233) -/
  | jge (ext : Word)
  /-- `JLE a`, `a = ext` (R233) -/
  | jle (ext : Word)
  /-- `JHI a`, `a = ext` (R233) -/
  | jhi (ext : Word)
  /-- `JLS a`, `a = ext` (R233) -/
  | jls (ext : Word)
  /-- `JMI a`, `a = ext` (R233) -/
  | jmi (ext : Word)
  /-- `JPL a`, `a = ext` (R233) -/
  | jpl (ext : Word)
  /-- `JNV a`, `a = ext` (R233) -/
  | jnv (ext : Word)
  /-- `CALLR Rx` (R234) -/
  | callr (x : RegIx)
  /-- `CALLEQR Rx` (R234) -/
  | calleqr (x : RegIx)
  /-- `CALLNER Rx` (R234) -/
  | callner (x : RegIx)
  /-- `CALLCSR Rx` (R234) -/
  | callcsr (x : RegIx)
  /-- `CALLCCR Rx` (R234) -/
  | callccr (x : RegIx)
  /-- `CALLVSR Rx` (R234) -/
  | callvsr (x : RegIx)
  /-- `CALLVCR Rx` (R234) -/
  | callvcr (x : RegIx)
  /-- `CALLGTR Rx` (R234) -/
  | callgtr (x : RegIx)
  /-- `CALLLTR Rx` (R234) -/
  | callltr (x : RegIx)
  /-- `CALLGER Rx` (R234) -/
  | callger (x : RegIx)
  /-- `CALLLER Rx` (R234) -/
  | calller (x : RegIx)
  /-- `CALLHIR Rx` (R234) -/
  | callhir (x : RegIx)
  /-- `CALLLSR Rx` (R234) -/
  | calllsr (x : RegIx)
  /-- `CALLMIR Rx` (R234) -/
  | callmir (x : RegIx)
  /-- `CALLPLR Rx` (R234) -/
  | callplr (x : RegIx)
  /-- `CALLNVR Rx` (R234) -/
  | callnvr (x : RegIx)
  /-- `CALL a`, `a = ext` (R235) -/
  | call (ext : Word)
  /-- `CALLEQ a`, `a = ext` (R235) -/
  | calleq (ext : Word)
  /-- `CALLNE a`, `a = ext` (R235) -/
  | callne (ext : Word)
  /-- `CALLCS a`, `a = ext` (R235) -/
  | callcs (ext : Word)
  /-- `CALLCC a`, `a = ext` (R235) -/
  | callcc (ext : Word)
  /-- `CALLVS a`, `a = ext` (R235) -/
  | callvs (ext : Word)
  /-- `CALLVC a`, `a = ext` (R235) -/
  | callvc (ext : Word)
  /-- `CALLGT a`, `a = ext` (R235) -/
  | callgt (ext : Word)
  /-- `CALLLT a`, `a = ext` (R235) -/
  | calllt (ext : Word)
  /-- `CALLGE a`, `a = ext` (R235) -/
  | callge (ext : Word)
  /-- `CALLLE a`, `a = ext` (R235) -/
  | callle (ext : Word)
  /-- `CALLHI a`, `a = ext` (R235) -/
  | callhi (ext : Word)
  /-- `CALLLS a`, `a = ext` (R235) -/
  | callls (ext : Word)
  /-- `CALLMI a`, `a = ext` (R235) -/
  | callmi (ext : Word)
  /-- `CALLPL a`, `a = ext` (R235) -/
  | callpl (ext : Word)
  /-- `CALLNV a`, `a = ext` (R235) -/
  | callnv (ext : Word)
  /-- `IN Rx, p, r` (R250) -/
  | ioIn (x : RegIx) (p : IoIx) (r : IoIx)
  /-- `OUT Rx, p, r` (R251) -/
  | ioOut (x : RegIx) (p : IoIx) (r : IoIx)
  /-- undefined class-0 word `0x0004` to `0x0FFF`, given by its low twelve bits (R124) -/
  | undefSystem (low : BitVec 12)
  /-- undefined class-1 sub-opcode, `t` at least 2 (R253) -/
  | undefMove (t : BitVec 4)
  /-- undefined class-2 sub-opcode, `t` at least 10 (R253) -/
  | undefAlu (t : BitVec 4)
  /-- undefined class-3 sub-opcode, `t` at least 10 (R253) -/
  | undefAluImm (t : BitVec 4)
  /-- undefined class-4 sub-opcode, `t` at least 10 (R253) -/
  | undefUnary (t : BitVec 4)
  /-- undefined class-5 sub-opcode, `t` at least 9 (R253) -/
  | undefLoadStore (t : BitVec 4)
  /-- undefined class-6 sub-opcode, `t` at least 4 (R253) -/
  | undefStack (t : BitVec 4)
  /-- any word of class 0xD (R253) -/
  | undefClassD
  /-- any word of class 0xE (R253) -/
  | undefClassE
  /-- any word of class 0xF (R253) -/
  | undefClassF
  deriving DecidableEq, Repr

end Sys2Proof
end

