-- ==== Sys2Proof/WellFormed.lean ====
section
/-! DEFINITION. Which instruction terms stand for words of the machine. Every operand value of a defined instruction can be
encoded; the constructors of the undefined encodings carry the sub-opcode (or, in class 0, the low twelve bits), which must
be one that the class leaves undefined (R99, R103). -/

namespace Sys2Proof

/-- The term is one the decoder can answer (R99, R100, R103). -/
def Instr.wf : Instr → Bool
  | .nop | .halt | .ret | .reti | .mov _ _ | .movi _ _ | .add _ _ | .sub _ _ | .mul _ _ | .div _ _ | .mod _ _
  | .and _ _ | .or _ _ | .xor _ _ | .cmp _ _ | .tst _ _ | .addi _ _ | .subi _ _ | .muli _ _ | .divi _ _ | .modi _ _
  | .andi _ _ | .ori _ _ | .xori _ _ | .cmpi _ _ | .tsti _ _ | .inc _ | .dec _ | .not _ | .neg _ | .shl _ _
  | .shr _ _ | .sar _ _ | .shli _ _ | .shri _ _ | .sari _ _ | .ld _ _ | .st _ _ | .ldb _ _ | .stb _ _ | .lda _ _
  | .sta _ _ | .ldba _ _ | .stba _ _ | .stia _ _ | .push _ | .pop _ | .pushf | .popf | .jmpr _ | .jeqr _ | .jner _
  | .jcsr _ | .jccr _ | .jvsr _ | .jvcr _ | .jgtr _ | .jltr _ | .jger _ | .jler _ | .jhir _ | .jlsr _ | .jmir _
  | .jplr _ | .jnvr _ | .jmp _ | .jeq _ | .jne _ | .jcs _ | .jcc _ | .jvs _ | .jvc _ | .jgt _ | .jlt _ | .jge _
  | .jle _ | .jhi _ | .jls _ | .jmi _ | .jpl _ | .jnv _ | .callr _ | .calleqr _ | .callner _ | .callcsr _
  | .callccr _ | .callvsr _ | .callvcr _ | .callgtr _ | .callltr _ | .callger _ | .calller _ | .callhir _
  | .calllsr _ | .callmir _ | .callplr _ | .callnvr _ | .call _ | .calleq _ | .callne _ | .callcs _ | .callcc _
  | .callvs _ | .callvc _ | .callgt _ | .calllt _ | .callge _ | .callle _ | .callhi _ | .callls _ | .callmi _
  | .callpl _ | .callnv _ | .ioIn _ _ _ | .ioOut _ _ _ | .undefClassD | .undefClassE | .undefClassF => true
  | .undefSystem low => decide (4 ≤ low)
  | .undefMove t => decide (2 ≤ t)
  | .undefAlu t => decide (10 ≤ t)
  | .undefAluImm t => decide (10 ≤ t)
  | .undefUnary t => decide (10 ≤ t)
  | .undefLoadStore t => decide (9 ≤ t)
  | .undefStack t => decide (4 ≤ t)

end Sys2Proof
end

