-- ==== Sys2Proof/Decode.lean ====
section
/-! DEFINITION. The decoder (30_encoding.md R90 to R103) and, after it, the encoder. Decoding is total: no word is illegal
(R97), and the only rejection, `DecodeError.truncated`, is of a byte list shorter than the instruction it begins. -/

namespace Sys2Proof

/-! ## Bytes, words and fields -/

/-- The 16-bit value whose low byte is `lo` (R64: little-endian). -/
def wordOf (lo hi : Byte) : Word := hi ++ lo

/-- Bits 7:0, the byte at the lower address (R65). -/
def loByte (w : Word) : Byte := w.extractLsb' 0 8

/-- Bits 15:8, the byte at the higher address (R65). -/
def hiByte (w : Word) : Byte := w.extractLsb' 8 8

/-- The class field, bits 15:12 (R90). -/
def classOf (w : Word) : BitVec 4 := w.extractLsb' 12 4

/-- The `t` field, bits 11:8 (R90). -/
def tOf (w : Word) : BitVec 4 := w.extractLsb' 8 4

/-- The `X` field, bits 7:4 (R90). -/
def xOf (w : Word) : BitVec 4 := w.extractLsb' 4 4

/-- The `Y` field, bits 3:0 (R90). -/
def yOf (w : Word) : BitVec 4 := w.extractLsb' 0 4

/-- A four-bit field read as a register selector, port or register index (R94). -/
def fieldIx (b : BitVec 4) : Fin 16 := ⟨b.toNat, b.isLt⟩

/-! ## Length (R95) -/

/-- The (class, t) pairs that take an immediate word: MOVI, ADDI to TSTI, STIA (R95). -/
def hasImm (cls t : BitVec 4) : Bool :=
  (cls == 0x1 && t == 0x1) || (cls == 0x3 && decide (t ≤ 0x9)) || (cls == 0x5 && t == 0x8)

/-- The (class, t) pairs that take an address word: LDA to STIA, J<cc>, CALL<cc> (R95). -/
def hasAddr (cls t : BitVec 4) : Bool :=
  (cls == 0x5 && decide (0x4 ≤ t) && decide (t ≤ 0x8)) || cls == 0x8 || cls == 0xA

/-- The number of extension words that follow the instruction word `w`, a function of (class, t) alone (R97). -/
def extWords (w : Word) : Nat := (hasImm (classOf w) (tOf w)).toNat + (hasAddr (classOf w) (tOf w)).toNat

/-! ## The opcode map (R98 to R102) -/

/-- Class 0, decoded on the whole word (R99). -/
def decodeSystem (w : Word) : Instr :=
  match w.toNat with
  | 0 => .nop
  | 1 => .halt
  | 2 => .ret
  | 3 => .reti
  | _ => .undefSystem (w.extractLsb' 0 12)

/-- Class 1 (R100). -/
def decodeMove (t : BitVec 4) (x y : RegIx) (imm : Word) : Instr :=
  match t.toNat with
  | 0 => .mov x y
  | 1 => .movi x imm
  | _ => .undefMove t

/-- Class 2 (R100). -/
def decodeAlu (t : BitVec 4) (x y : RegIx) : Instr :=
  match t.toNat with
  | 0 => .add x y
  | 1 => .sub x y
  | 2 => .mul x y
  | 3 => .div x y
  | 4 => .mod x y
  | 5 => .and x y
  | 6 => .or x y
  | 7 => .xor x y
  | 8 => .cmp x y
  | 9 => .tst x y
  | _ => .undefAlu t

/-- Class 3 (R100). -/
def decodeAluImm (t : BitVec 4) (x : RegIx) (imm : Word) : Instr :=
  match t.toNat with
  | 0 => .addi x imm
  | 1 => .subi x imm
  | 2 => .muli x imm
  | 3 => .divi x imm
  | 4 => .modi x imm
  | 5 => .andi x imm
  | 6 => .ori x imm
  | 7 => .xori x imm
  | 8 => .cmpi x imm
  | 9 => .tsti x imm
  | _ => .undefAluImm t

/-- Class 4; `yb` is the Y field, a register or a shift amount (R94, R100). -/
def decodeUnary (t : BitVec 4) (x : RegIx) (yb : BitVec 4) : Instr :=
  match t.toNat with
  | 0 => .inc x
  | 1 => .dec x
  | 2 => .not x
  | 3 => .neg x
  | 4 => .shl x (fieldIx yb)
  | 5 => .shr x (fieldIx yb)
  | 6 => .sar x (fieldIx yb)
  | 7 => .shli x yb
  | 8 => .shri x yb
  | 9 => .sari x yb
  | _ => .undefUnary t

/-- Class 5 (R100). -/
def decodeLoadStore (t : BitVec 4) (x y : RegIx) (imm ext : Word) : Instr :=
  match t.toNat with
  | 0 => .ld x y
  | 1 => .st x y
  | 2 => .ldb x y
  | 3 => .stb x y
  | 4 => .lda x ext
  | 5 => .sta x ext
  | 6 => .ldba x ext
  | 7 => .stba x ext
  | 8 => .stia imm ext
  | _ => .undefLoadStore t

/-- Class 6 (R100). -/
def decodeStack (t : BitVec 4) (x : RegIx) : Instr :=
  match t.toNat with
  | 0 => .push x
  | 1 => .pop x
  | 2 => .pushf
  | 3 => .popf
  | _ => .undefStack t

/-- Class 7; `t` is the condition code (R101). -/
def decodeJumpReg (t : BitVec 4) (x : RegIx) : Instr :=
  match t.toNat with
  | 0 => .jmpr x
  | 1 => .jeqr x
  | 2 => .jner x
  | 3 => .jcsr x
  | 4 => .jccr x
  | 5 => .jvsr x
  | 6 => .jvcr x
  | 7 => .jgtr x
  | 8 => .jltr x
  | 9 => .jger x
  | 10 => .jler x
  | 11 => .jhir x
  | 12 => .jlsr x
  | 13 => .jmir x
  | 14 => .jplr x
  | _ => .jnvr x

/-- Class 8; `t` is the condition code (R101). -/
def decodeJumpAddr (t : BitVec 4) (ext : Word) : Instr :=
  match t.toNat with
  | 0 => .jmp ext
  | 1 => .jeq ext
  | 2 => .jne ext
  | 3 => .jcs ext
  | 4 => .jcc ext
  | 5 => .jvs ext
  | 6 => .jvc ext
  | 7 => .jgt ext
  | 8 => .jlt ext
  | 9 => .jge ext
  | 10 => .jle ext
  | 11 => .jhi ext
  | 12 => .jls ext
  | 13 => .jmi ext
  | 14 => .jpl ext
  | _ => .jnv ext

/-- Class 9; `t` is the condition code (R101). -/
def decodeCallReg (t : BitVec 4) (x : RegIx) : Instr :=
  match t.toNat with
  | 0 => .callr x
  | 1 => .calleqr x
  | 2 => .callner x
  | 3 => .callcsr x
  | 4 => .callccr x
  | 5 => .callvsr x
  | 6 => .callvcr x
  | 7 => .callgtr x
  | 8 => .callltr x
  | 9 => .callger x
  | 10 => .calller x
  | 11 => .callhir x
  | 12 => .calllsr x
  | 13 => .callmir x
  | 14 => .callplr x
  | _ => .callnvr x

/-- Class 0xA; `t` is the condition code (R101). -/
def decodeCallAddr (t : BitVec 4) (ext : Word) : Instr :=
  match t.toNat with
  | 0 => .call ext
  | 1 => .calleq ext
  | 2 => .callne ext
  | 3 => .callcs ext
  | 4 => .callcc ext
  | 5 => .callvs ext
  | 6 => .callvc ext
  | 7 => .callgt ext
  | 8 => .calllt ext
  | 9 => .callge ext
  | 10 => .callle ext
  | 11 => .callhi ext
  | 12 => .callls ext
  | 13 => .callmi ext
  | 14 => .callpl ext
  | _ => .callnv ext

/-- The instruction of the word `w` with the extension words `imm` and `ext`, a word that is not fetched being any value
(R98). -/
def decodeWords (w imm ext : Word) : Instr :=
  let t := tOf w
  let x := fieldIx (xOf w)
  let y := fieldIx (yOf w)
  match (classOf w).toNat with
  | 0x0 => decodeSystem w
  | 0x1 => decodeMove t x y imm
  | 0x2 => decodeAlu t x y
  | 0x3 => decodeAluImm t x imm
  | 0x4 => decodeUnary t x (yOf w)
  | 0x5 => decodeLoadStore t x y imm ext
  | 0x6 => decodeStack t x
  | 0x7 => decodeJumpReg t x
  | 0x8 => decodeJumpAddr t ext
  | 0x9 => decodeCallReg t x
  | 0xA => decodeCallAddr t ext
  | 0xB => .ioIn x (fieldIx t) y
  | 0xC => .ioOut x (fieldIx t) y
  | 0xD => .undefClassD
  | 0xE => .undefClassE
  | _ => .undefClassF

/-! ## Decoding bytes -/

/-- Why a byte list is not an instruction. -/
inductive DecodeError where
  /-- The list ends before the instruction it begins does. Raised by `decodeBytes` only; the machine's own fetch reads as
  many bytes as it needs (R96), so no step meets it. Safe. -/
  | truncated
  deriving DecidableEq, Repr

/-- The next little-endian word of a byte list (R67). -/
def takeWord : List Byte → Except DecodeError (Word × List Byte)
  | lo :: hi :: rest => .ok (wordOf lo hi, rest)
  | _ => .error .truncated

/-- The next word where the extension table asks for one (R96). -/
def takeExt (wanted : Bool) (bs : List Byte) : Except DecodeError (Word × List Byte) :=
  if wanted then takeWord bs else .ok (0, bs)

/-- The instruction at the head of a byte list, with the bytes after it; the immediate word comes before the address word
(R91, R96). -/
def decodeBytes (bs : List Byte) : Except DecodeError (Instr × List Byte) :=
  match takeWord bs with
  | .error e => .error e
  | .ok (w, bs1) =>
    match takeExt (hasImm (classOf w) (tOf w)) bs1 with
    | .error e => .error e
    | .ok (imm, bs2) =>
      match takeExt (hasAddr (classOf w) (tOf w)) bs2 with
      | .error e => .error e
      | .ok (ext, bs3) => .ok (decodeWords w imm ext, bs3)

/-- The six bytes (the longest instruction, R91) of an instruction whose bits are `w`, numbered as spec/opcode_table.json
numbers them; bits at or above `nbits` are 0. -/
def tableBytes (nbits w : Nat) : List Byte :=
  [0, 1, 2, 3, 4, 5].map fun k => BitVec.ofNat 8 ((w % 2 ^ nbits) >>> (8 * k))

/-- The instruction the decoder reads from a table word. -/
def decodeTableWord (nbits w : Nat) : Option Instr :=
  match decodeBytes (tableBytes nbits w) with
  | .ok (i, _) => some i
  | .error _ => none

/-! ## The encoder (R106) -/

/-- The instruction word of class, `t`, `X` and `Y` (R90). -/
def instrWord (cls t x y : BitVec 4) : Word := cls ++ t ++ x ++ y

/-- A selector as its four-bit field (R94). -/
def fieldBits (i : Fin 16) : BitVec 4 := BitVec.ofNat 4 i.val

/-- The words of an instruction, in address order; unused fields are written 0 (R106). -/
def Instr.encode : Instr → List Word
  | .nop => [0x0000]
  | .halt => [0x0001]
  | .ret => [0x0002]
  | .reti => [0x0003]
  | .mov x y => [instrWord 0x1 0x0 (fieldBits x) (fieldBits y)]
  | .movi x imm => [instrWord 0x1 0x1 (fieldBits x) 0, imm]
  | .add x y => [instrWord 0x2 0x0 (fieldBits x) (fieldBits y)]
  | .sub x y => [instrWord 0x2 0x1 (fieldBits x) (fieldBits y)]
  | .mul x y => [instrWord 0x2 0x2 (fieldBits x) (fieldBits y)]
  | .div x y => [instrWord 0x2 0x3 (fieldBits x) (fieldBits y)]
  | .mod x y => [instrWord 0x2 0x4 (fieldBits x) (fieldBits y)]
  | .and x y => [instrWord 0x2 0x5 (fieldBits x) (fieldBits y)]
  | .or x y => [instrWord 0x2 0x6 (fieldBits x) (fieldBits y)]
  | .xor x y => [instrWord 0x2 0x7 (fieldBits x) (fieldBits y)]
  | .cmp x y => [instrWord 0x2 0x8 (fieldBits x) (fieldBits y)]
  | .tst x y => [instrWord 0x2 0x9 (fieldBits x) (fieldBits y)]
  | .addi x imm => [instrWord 0x3 0x0 (fieldBits x) 0, imm]
  | .subi x imm => [instrWord 0x3 0x1 (fieldBits x) 0, imm]
  | .muli x imm => [instrWord 0x3 0x2 (fieldBits x) 0, imm]
  | .divi x imm => [instrWord 0x3 0x3 (fieldBits x) 0, imm]
  | .modi x imm => [instrWord 0x3 0x4 (fieldBits x) 0, imm]
  | .andi x imm => [instrWord 0x3 0x5 (fieldBits x) 0, imm]
  | .ori x imm => [instrWord 0x3 0x6 (fieldBits x) 0, imm]
  | .xori x imm => [instrWord 0x3 0x7 (fieldBits x) 0, imm]
  | .cmpi x imm => [instrWord 0x3 0x8 (fieldBits x) 0, imm]
  | .tsti x imm => [instrWord 0x3 0x9 (fieldBits x) 0, imm]
  | .inc x => [instrWord 0x4 0x0 (fieldBits x) 0]
  | .dec x => [instrWord 0x4 0x1 (fieldBits x) 0]
  | .not x => [instrWord 0x4 0x2 (fieldBits x) 0]
  | .neg x => [instrWord 0x4 0x3 (fieldBits x) 0]
  | .shl x y => [instrWord 0x4 0x4 (fieldBits x) (fieldBits y)]
  | .shr x y => [instrWord 0x4 0x5 (fieldBits x) (fieldBits y)]
  | .sar x y => [instrWord 0x4 0x6 (fieldBits x) (fieldBits y)]
  | .shli x n => [instrWord 0x4 0x7 (fieldBits x) n]
  | .shri x n => [instrWord 0x4 0x8 (fieldBits x) n]
  | .sari x n => [instrWord 0x4 0x9 (fieldBits x) n]
  | .ld x y => [instrWord 0x5 0x0 (fieldBits x) (fieldBits y)]
  | .st x y => [instrWord 0x5 0x1 (fieldBits x) (fieldBits y)]
  | .ldb x y => [instrWord 0x5 0x2 (fieldBits x) (fieldBits y)]
  | .stb x y => [instrWord 0x5 0x3 (fieldBits x) (fieldBits y)]
  | .lda x ext => [instrWord 0x5 0x4 (fieldBits x) 0, ext]
  | .sta x ext => [instrWord 0x5 0x5 (fieldBits x) 0, ext]
  | .ldba x ext => [instrWord 0x5 0x6 (fieldBits x) 0, ext]
  | .stba x ext => [instrWord 0x5 0x7 (fieldBits x) 0, ext]
  | .stia imm ext => [instrWord 0x5 0x8 0 0, imm, ext]
  | .push x => [instrWord 0x6 0x0 (fieldBits x) 0]
  | .pop x => [instrWord 0x6 0x1 (fieldBits x) 0]
  | .pushf => [instrWord 0x6 0x2 0 0]
  | .popf => [instrWord 0x6 0x3 0 0]
  | .jmpr x => [instrWord 0x7 0x0 (fieldBits x) 0]
  | .jeqr x => [instrWord 0x7 0x1 (fieldBits x) 0]
  | .jner x => [instrWord 0x7 0x2 (fieldBits x) 0]
  | .jcsr x => [instrWord 0x7 0x3 (fieldBits x) 0]
  | .jccr x => [instrWord 0x7 0x4 (fieldBits x) 0]
  | .jvsr x => [instrWord 0x7 0x5 (fieldBits x) 0]
  | .jvcr x => [instrWord 0x7 0x6 (fieldBits x) 0]
  | .jgtr x => [instrWord 0x7 0x7 (fieldBits x) 0]
  | .jltr x => [instrWord 0x7 0x8 (fieldBits x) 0]
  | .jger x => [instrWord 0x7 0x9 (fieldBits x) 0]
  | .jler x => [instrWord 0x7 0xA (fieldBits x) 0]
  | .jhir x => [instrWord 0x7 0xB (fieldBits x) 0]
  | .jlsr x => [instrWord 0x7 0xC (fieldBits x) 0]
  | .jmir x => [instrWord 0x7 0xD (fieldBits x) 0]
  | .jplr x => [instrWord 0x7 0xE (fieldBits x) 0]
  | .jnvr x => [instrWord 0x7 0xF (fieldBits x) 0]
  | .jmp ext => [instrWord 0x8 0x0 0 0, ext]
  | .jeq ext => [instrWord 0x8 0x1 0 0, ext]
  | .jne ext => [instrWord 0x8 0x2 0 0, ext]
  | .jcs ext => [instrWord 0x8 0x3 0 0, ext]
  | .jcc ext => [instrWord 0x8 0x4 0 0, ext]
  | .jvs ext => [instrWord 0x8 0x5 0 0, ext]
  | .jvc ext => [instrWord 0x8 0x6 0 0, ext]
  | .jgt ext => [instrWord 0x8 0x7 0 0, ext]
  | .jlt ext => [instrWord 0x8 0x8 0 0, ext]
  | .jge ext => [instrWord 0x8 0x9 0 0, ext]
  | .jle ext => [instrWord 0x8 0xA 0 0, ext]
  | .jhi ext => [instrWord 0x8 0xB 0 0, ext]
  | .jls ext => [instrWord 0x8 0xC 0 0, ext]
  | .jmi ext => [instrWord 0x8 0xD 0 0, ext]
  | .jpl ext => [instrWord 0x8 0xE 0 0, ext]
  | .jnv ext => [instrWord 0x8 0xF 0 0, ext]
  | .callr x => [instrWord 0x9 0x0 (fieldBits x) 0]
  | .calleqr x => [instrWord 0x9 0x1 (fieldBits x) 0]
  | .callner x => [instrWord 0x9 0x2 (fieldBits x) 0]
  | .callcsr x => [instrWord 0x9 0x3 (fieldBits x) 0]
  | .callccr x => [instrWord 0x9 0x4 (fieldBits x) 0]
  | .callvsr x => [instrWord 0x9 0x5 (fieldBits x) 0]
  | .callvcr x => [instrWord 0x9 0x6 (fieldBits x) 0]
  | .callgtr x => [instrWord 0x9 0x7 (fieldBits x) 0]
  | .callltr x => [instrWord 0x9 0x8 (fieldBits x) 0]
  | .callger x => [instrWord 0x9 0x9 (fieldBits x) 0]
  | .calller x => [instrWord 0x9 0xA (fieldBits x) 0]
  | .callhir x => [instrWord 0x9 0xB (fieldBits x) 0]
  | .calllsr x => [instrWord 0x9 0xC (fieldBits x) 0]
  | .callmir x => [instrWord 0x9 0xD (fieldBits x) 0]
  | .callplr x => [instrWord 0x9 0xE (fieldBits x) 0]
  | .callnvr x => [instrWord 0x9 0xF (fieldBits x) 0]
  | .call ext => [instrWord 0xA 0x0 0 0, ext]
  | .calleq ext => [instrWord 0xA 0x1 0 0, ext]
  | .callne ext => [instrWord 0xA 0x2 0 0, ext]
  | .callcs ext => [instrWord 0xA 0x3 0 0, ext]
  | .callcc ext => [instrWord 0xA 0x4 0 0, ext]
  | .callvs ext => [instrWord 0xA 0x5 0 0, ext]
  | .callvc ext => [instrWord 0xA 0x6 0 0, ext]
  | .callgt ext => [instrWord 0xA 0x7 0 0, ext]
  | .calllt ext => [instrWord 0xA 0x8 0 0, ext]
  | .callge ext => [instrWord 0xA 0x9 0 0, ext]
  | .callle ext => [instrWord 0xA 0xA 0 0, ext]
  | .callhi ext => [instrWord 0xA 0xB 0 0, ext]
  | .callls ext => [instrWord 0xA 0xC 0 0, ext]
  | .callmi ext => [instrWord 0xA 0xD 0 0, ext]
  | .callpl ext => [instrWord 0xA 0xE 0 0, ext]
  | .callnv ext => [instrWord 0xA 0xF 0 0, ext]
  | .ioIn x p r => [instrWord 0xB (fieldBits p) (fieldBits x) (fieldBits r)]
  | .ioOut x p r => [instrWord 0xC (fieldBits p) (fieldBits x) (fieldBits r)]
  | .undefSystem low => [0#4 ++ low]
  | .undefMove t => [instrWord 0x1 t 0 0]
  | .undefAlu t => [instrWord 0x2 t 0 0]
  | .undefAluImm t => [instrWord 0x3 t 0 0]
  | .undefUnary t => [instrWord 0x4 t 0 0]
  | .undefLoadStore t => [instrWord 0x5 t 0 0]
  | .undefStack t => [instrWord 0x6 t 0 0]
  | .undefClassD => [instrWord 0xD 0 0 0]
  | .undefClassE => [instrWord 0xE 0 0 0]
  | .undefClassF => [instrWord 0xF 0 0 0]

/-- The bytes of a list of words, each little-endian (R67). -/
def wordBytes : List Word → List Byte
  | [] => []
  | w :: ws => loByte w :: hiByte w :: wordBytes ws

/-- The bytes of an instruction as it stands in memory. -/
def Instr.encodeBytes (i : Instr) : List Byte := wordBytes i.encode

end Sys2Proof
end

