-- ==== Sys2Proof/Machine/Memory.lean ====
section
/-! DEFINITION. One backing store (R50) as plain data: the bytes that differ from what an unlisted address reads as, by their
place in the store, in strictly rising order. -/

namespace Sys2Proof.Machine

/-- `BANK_SIZE` (R10). -/
def bankSize : Nat := 0x8000

/-- One backing store. A byte's address in the list is `bank * bankSize + offset`. -/
abbrev Memory := List Host.Cell

/-- What an unlisted byte of a store reads as: RAM is 0x00 at power-on (R50, R400); a ROM or DISK byte that the host's image
does not list is 0x00 too (log entry 1). -/
def unlisted : Byte := 0x00

/-- The canonical form: addresses strictly rising, no entry equal to `unlisted`. -/
abbrev Memory.wf (m : Memory) : Prop := m.Pairwise (fun c d => c.1 < d.1) ∧ ∀ c ∈ m, c.2 ≠ unlisted

/-- Every listed byte lies in one of the store's `banks` banks (R50). -/
abbrev Memory.within (m : Memory) (banks : Nat) : Prop := ∀ c ∈ m, c.1 < banks * bankSize

/-- The byte at a place of a store. -/
def Memory.read : Memory → Nat → Byte
  | [], _ => unlisted
  | (a, b) :: m, k => if a = k then b else Memory.read m k

/-- The store with a listed byte put in its place in the order. -/
def Memory.setListed : Memory → Nat → Byte → Memory
  | [], k, v => [(k, v)]
  | (a, b) :: m, k, v =>
    if k < a then (k, v) :: (a, b) :: m
    else if a = k then (k, v) :: m
    else (a, b) :: Memory.setListed m k v

/-- The store with no byte listed at a place. -/
def Memory.unlist : Memory → Nat → Memory
  | [], _ => []
  | (a, b) :: m, k => if a = k then Memory.unlist m k else (a, b) :: Memory.unlist m k

/-- The store with one byte written; writing what an unlisted byte reads as removes the entry. -/
def Memory.write (m : Memory) (k : Nat) (v : Byte) : Memory :=
  if v = unlisted then m.unlist k else m.setListed k v

end Sys2Proof.Machine
end

