-- ==== Sys2Proof/Machine/State.lean ====
section
/-! DEFINITION. The machine state (10_state.md) as plain data, the reasons a step can stop, and the state after reset
(70_reset_and_hazards.md R400). -/

namespace Sys2Proof.Machine

/-- The flags register (R36). -/
structure Flags where
  /-- negative -/
  n : Bool
  /-- zero -/
  z : Bool
  /-- carry or borrow -/
  c : Bool
  /-- signed overflow -/
  v : Bool
  deriving DecidableEq, Repr

/-- Why a step stops with a fault. No constructor: nothing in this machine faults or traps (R310), every event that could
trap is defined instead, so nothing raises a fault, and that is safe only because the spec says so (log entry 3). -/
inductive Fault where
  deriving DecidableEq, Repr

/-- Why a step refuses. -/
inductive Refusal where
  /-- An instruction whose meaning is not written yet, by its mnemonic. Raised by no arm of `exec`: every instruction has its
  meaning. Safe: a refused step proves nothing. -/
  | notModelled (mnemonic : String)
  deriving DecidableEq, Repr

/-- The machine state. -/
structure State where
  /-- R0 to R15 (R30); R0 is ACC, R14 is SP, R15 is PC (R31). -/
  regs : Vector Word 16
  /-- FLAGS (R36). -/
  flags : Flags
  /-- `halted` (R39). -/
  halted : Bool
  /-- `irq_pending` (R40). -/
  irqPending : Bool
  /-- `irq_vector` (R40). -/
  irqVector : Word
  /-- `tick`, the number of completed cycles modulo 2^32 (R42). -/
  tick : BitVec 32
  /-- `io[p][r]`, 16 ports of 16 registers (R43); the MMU records, the keyboard, timer, DMA and PIC registers are here
  (R44 to R49). -/
  io : Vector (Vector Word 16) 16
  /-- The ROM banks (R50). -/
  rom : Memory
  /-- The DISK banks (R50). -/
  disk : Memory
  /-- The RAM banks (R50). -/
  ram : Memory
  /-- The machine's bank counts (R11), a parameter that no step changes (log entry 2). -/
  banks : BankCounts
  deriving DecidableEq, Repr

/-- A port of sixteen zero registers (R43). -/
def zeroPort : Vector Word 16 := Vector.replicate 16 0

/-- The I/O registers after reset: HI_KIND = 2 (RAM), IMR = 0xFFFF, every other register 0 (R400). -/
def ioAfterReset : Vector (Vector Word 16) 16 :=
  ((Vector.replicate 16 zeroPort).set 0 (zeroPort.set 2 0x0002)).set 8 (zeroPort.set 0 0xFFFF)

/-- The state right after power-on of a machine with the given bank counts and the host's ROM and DISK images: every register
at its value of R400, RAM all 0x00 (R403, R412). -/
def State.powerOn (banks : BankCounts) (romImage diskImage : Memory) : State where
  regs := Vector.replicate 16 0
  flags := { n := false, z := false, c := false, v := false }
  halted := false
  irqPending := false
  irqVector := 0
  tick := 0
  io := ioAfterReset
  rom := romImage
  disk := diskImage
  ram := []
  banks := banks

/-- The machine right after reset (R400). The images and the bank counts are inputs the spec leaves to the host and the
implementation: no image (every byte 0x00, DESIGN CHOICE, log entry 1) and the counts of the spec's test vectors (DESIGN
CHOICE, log entry 2). -/
def State.reset : State := State.powerOn BankCounts.testVectors [] []

end Sys2Proof.Machine
end

