-- ==== Sys2Proof/Machine/Flags.lean ====
section
/-! DEFINITION. Every flag computation: the result and flags of the arithmetic, logic and shift operations (R140 to R144,
R180 to R182), the 16-bit image of FLAGS (R36), and the conditions (R230). -/

namespace Sys2Proof.Machine

/-- A 16-bit result with the four flags of its operation. -/
structure AluResult where
  value : Word
  flags : Flags
  deriving DecidableEq, Repr

/-- The result `r` with N and Z taken from it, as every operation takes them, and the given C and V. -/
def resultWith (r : Word) (c v : Bool) : AluResult :=
  { value := r, flags := { n := r.msb, z := r == 0, c := c, v := v } }

/-- `AddOp` (R140): the sum in a wider intermediate; C when it exceeds 16 bits; V when the operands share a sign that the
result does not. -/
def addOp (a b : Word) : AluResult :=
  let s := a.toNat + b.toNat
  let r := BitVec.ofNat 16 s
  resultWith r (decide (0xFFFF < s)) (a.msb == b.msb && r.msb != a.msb)

/-- `SubOp` (R141): a − b; C is the borrow; V when the operands differ in sign and the result's sign is not the minuend's. -/
def subOp (a b : Word) : AluResult :=
  let r := BitVec.ofInt 16 ((a.toNat : Int) - b.toNat)
  resultWith r (decide (a.toNat < b.toNat)) (a.msb != b.msb && r.msb != a.msb)

/-- `LogicFlags` (R142), with the result it is taken from. -/
def logicOp (r : Word) : AluResult := resultWith r false false

/-- `MulOp` (R143): the low half of the unsigned product; C when the product exceeds 16 bits. -/
def mulOp (a b : Word) : AluResult :=
  let p := a.toNat * b.toNat
  resultWith (BitVec.ofNat 16 p) (decide (0xFFFF < p)) false

/-- `DivOp` (R144), unsigned truncating; none for a zero divisor, which has no result and no flag. -/
def divOp (a b : Word) : Option AluResult :=
  if b = 0 then none else some (resultWith (BitVec.ofNat 16 (a.toNat / b.toNat)) false false)

/-- `ModOp` (R144), the unsigned remainder; none for a zero divisor. -/
def modOp (a b : Word) : Option AluResult :=
  if b = 0 then none else some (resultWith (BitVec.ofNat 16 (a.toNat % b.toNat)) false false)

/-- `ShlOp` (R180): the whole 16-bit amount counts; C is the last bit shifted out. -/
def shlOp (v n : Word) : AluResult :=
  let k := n.toNat
  if k = 0 then resultWith v false false
  else if k ≤ 16 then resultWith (v <<< k) (v.getLsbD (16 - k)) false
  else resultWith 0 false false

/-- `ShrOp` (R181). -/
def shrOp (v n : Word) : AluResult :=
  let k := n.toNat
  if k = 0 then resultWith v false false
  else if k ≤ 16 then resultWith (v >>> k) (v.getLsbD (k - 1)) false
  else resultWith 0 false false

/-- `SarOp` (R182): from 16 on every bit shifted out is a copy of the sign. -/
def sarOp (v n : Word) : AluResult :=
  let k := n.toNat
  if k = 0 then resultWith v false false
  else if k ≤ 15 then resultWith (v.sshiftRight k) (v.getLsbD (k - 1)) false
  else resultWith (if v.msb then 0xFFFF else 0) v.msb false

/-- The 16-bit image of FLAGS: bit 3 N, bit 2 Z, bit 1 C, bit 0 V, bits 15:4 zero (R36). -/
def Flags.image (f : Flags) : Word :=
  0#12 ++ BitVec.ofBool f.n ++ BitVec.ofBool f.z ++ BitVec.ofBool f.c ++ BitVec.ofBool f.v

/-- FLAGS from a 16-bit image; bits 15:4 are ignored (R36). -/
def Flags.ofImage (w : Word) : Flags :=
  { n := w.getLsbD 3, z := w.getLsbD 2, c := w.getLsbD 1, v := w.getLsbD 0 }

/-- `Cond(t)` (R230). PRESUMED by the spec itself for GT, LT, GE, LE, HI, LS (93_implementation_defined.md K1, log entry 8). -/
def condHolds : Cond → Flags → Bool
  | .al, _ => true
  | .eq, f => f.z
  | .ne, f => !f.z
  | .cs, f => f.c
  | .cc, f => !f.c
  | .vs, f => f.v
  | .vc, f => !f.v
  | .gt, f => !f.z && f.n == f.v
  | .lt, f => f.n != f.v
  | .ge, f => f.n == f.v
  | .le, f => f.z || f.n != f.v
  | .hi, f => !f.c && !f.z
  | .ls, f => f.c || f.z
  | .mi, f => f.n
  | .pl, f => !f.n
  | .nv, _ => false

end Sys2Proof.Machine
end

