-- ==== Sys2Proof/Machine/Ops.lean ====
section
/-! DEFINITION. The named operations over registers, I/O registers and memory: the register file (R30 to R34), the I/O
registers (R43), the MMU and the byte and word accesses (R61 to R65), the stack primitives (R220), the PIC's line-raise
primitive (R321), and interrupt entry with the return from it (R330, R123). -/

namespace Sys2Proof.Machine

/-! ## Registers -/

/-- ACC is R0 (R31). -/
def accIx : RegIx := 0

/-- SP is R14 (R31). -/
def spIx : RegIx := 14

/-- PC is R15 (R31). -/
def pcIx : RegIx := 15

/-- `x[i]` (R19, R32): no register is hardwired. -/
def State.reg (s : State) (i : RegIx) : Word := s.regs[i]

/-- `x[i] <- v` (R19); writing R15 is a control transfer and writing R14 moves the stack pointer (R32). -/
def State.setReg (s : State) (i : RegIx) (v : Word) : State := { s with regs := s.regs.set i v }

/-- The program counter (R33). -/
def State.pc (s : State) : Word := s.reg pcIx

/-- The stack pointer (R34). -/
def State.sp (s : State) : Word := s.reg spIx

/-- `PC <- target` (R19). -/
def State.setPc (s : State) (v : Word) : State := s.setReg pcIx v

/-- `SP <- v`. -/
def State.setSp (s : State) (v : Word) : State := s.setReg spIx v

/-- `FLAGS <- f`. -/
def State.setFlags (s : State) (f : Flags) : State := { s with flags := f }

/-- The halted flag set (R39). -/
def State.setHalted (s : State) : State := { s with halted := true }

/-- The pending-interrupt flag and vector written (R40). -/
def State.setIrq (s : State) (pending : Bool) (vector : Word) : State :=
  { s with irqPending := pending, irqVector := vector }

/-- The tick counter written (R42). -/
def State.setTick (s : State) (t : BitVec 32) : State := { s with tick := t }

/-! ## I/O registers (R43) -/

/-- `io[p][r]`; no read has a side effect (R43). -/
def State.ioReg (s : State) (p r : IoIx) : Word := s.io[p][r]

/-- `io[p][r] <- v`: plain storage (R43, R70). -/
def State.setIo (s : State) (p r : IoIx) (v : Word) : State := { s with io := s.io.set p (s.io[p].set r v) }

/-- Port 0, the MMU (R44). -/
def mmuPort : IoIx := 0

/-- Port 1, the keyboard (R44). -/
def kbdPort : IoIx := 1

/-- Port 4 + i, timer i (R44). -/
def timerPort (i : Fin 3) : IoIx := ⟨4 + i.val, by omega⟩

/-- Port 7, the DMA engine (R44). -/
def dmaPort : IoIx := 7

/-- Port 8, the PIC (R44). -/
def picPort : IoIx := 8

/-! ## The MMU (R61 to R63) -/

/-- A backing-store kind (R45, R50). -/
inductive StoreKind where
  | rom | disk | ram
  deriving DecidableEq, Repr

/-- One byte of one bank of a backing store (R50). -/
structure Location where
  kind : StoreKind
  bank : Nat
  offset : BitVec 15
  deriving DecidableEq, Repr

/-- The place of a location's byte in its store's list. -/
def Location.key (l : Location) : Nat := l.bank * bankSize + l.offset.toNat

/-- A store of a kind can be written through the MMU: all but ROM (R63). -/
def StoreKind.writable : StoreKind → Bool
  | .rom => false
  | .disk => true
  | .ram => true

/-- The number of banks of a kind (R11). -/
def State.bankCount (s : State) : StoreKind → Nat
  | .rom => s.banks.rom
  | .disk => s.banks.disk
  | .ram => s.banks.ram

/-- The store of a kind (R50). -/
def State.store (s : State) : StoreKind → Memory
  | .rom => s.rom
  | .disk => s.disk
  | .ram => s.ram

/-- The state with the store of a kind replaced. -/
def State.setStore (s : State) : StoreKind → Memory → State
  | .rom, m => { s with rom := m }
  | .disk, m => { s with disk := m }
  | .ram, m => { s with ram := m }

/-- The byte a location holds. -/
def State.byteAt (s : State) (l : Location) : Byte := (s.store l.kind).read l.key

/-- The state with a location's byte replaced, whatever its kind. -/
def State.setByteAt (s : State) (l : Location) (v : Byte) : State :=
  s.setStore l.kind ((s.store l.kind).write l.key v)

/-- The kind a kind code names; any code but 0, 1 and 2 names none (R45, R62). -/
def kindOfCode (code : Word) : Option StoreKind :=
  if code = 0 then some .rom else if code = 1 then some .disk else if code = 2 then some .ram else none

/-- The half of the address space, `a[15]`, as the index of its KIND register in port 0; its BANK register is the next
(R45, R61). -/
def kindReg (a : Word) : IoIx := if a.msb then 2 else 0

/-- The index of the half's BANK register (R45). -/
def bankReg (a : Word) : IoIx := if a.msb then 3 else 1

/-- `Translate(a)`, from the mapping record as it stands at this access; none is UNMAPPED (R62). -/
def State.translate (s : State) (a : Word) : Option Location :=
  match kindOfCode (s.ioReg mmuPort (kindReg a)) with
  | none => none
  | some k =>
    let bank := (s.ioReg mmuPort (bankReg a)).toNat
    if bank < s.bankCount k then some { kind := k, bank := bank, offset := a.extractLsb' 0 15 } else none

/-- `MemRead8(a)`: an unmapped half reads 0x00 (R63). -/
def State.memRead8 (s : State) (a : Word) : Byte :=
  match s.translate a with
  | none => 0x00
  | some l => s.byteAt l

/-- `MemWrite8(a, v)`: a write to ROM or to an unmapped half is discarded (R63). -/
def State.memWrite8 (s : State) (a : Word) (v : Byte) : State :=
  match s.translate a with
  | none => s
  | some l => if l.kind.writable then s.setByteAt l v else s

/-- `MemRead(a, 2)`: the byte at `a` is the low byte (R64). -/
def State.memRead16 (s : State) (a : Word) : Word := wordOf (s.memRead8 a) (s.memRead8 (a + 1#16))

/-- `MemWrite(a, 2, v)`: the low byte first (R65). -/
def State.memWrite16 (s : State) (a v : Word) : State := (s.memWrite8 a (loByte v)).memWrite8 (a + 1#16) (hiByte v)

/-! ## The stack (R220) -/

/-- `Push16(v)`: SP moves even where the cell cannot be written. -/
def State.push16 (s : State) (v : Word) : State := (s.setSp (s.sp - 2#16)).memWrite16 (s.sp - 2#16) v

/-- `Pop16()`: the cell at SP, and the state with SP past it. -/
def State.pop16 (s : State) : Word × State := (s.memRead16 s.sp, s.setSp (s.sp + 2#16))

/-! ## Interrupts -/

/-- `Raise(l)`: ignored, and lost, where the line is masked (R321). -/
def State.raiseLine (s : State) (l : Fin 16) : State :=
  if (s.ioReg picPort 0).getLsbD l then s
  else s.setIo picPort 2 (s.ioReg picPort 2 ||| BitVec.twoPow 16 l)

/-- `InterruptEntry()`, the machine's one exception entry: PC and then the flags image pushed, PC from `irq_vector`,
`irq_pending` cleared; FLAGS, the other registers and the PIC unchanged (R330). -/
def State.interruptEntry (s : State) : State :=
  let s1 := s.push16 s.pc
  let s2 := s1.push16 s1.flags.image
  (s2.setPc s2.irqVector).setIrq false s2.irqVector

/-- The return from an interrupt: FLAGS and then PC popped; the PIC is not touched (R123). -/
def State.interruptReturn (s : State) : State :=
  let (f, s1) := s.pop16
  let (target, s2) := (s1.setFlags (Flags.ofImage f)).pop16
  s2.setPc target

end Sys2Proof.Machine
end

