-- ==== Sys2Proof/Machine/Dma.lean ====
section
/-! DEFINITION. The DMA engine (60_exceptions.md R350 to R354). -/

namespace Sys2Proof.Machine

/-- `DMA_MAX`, the largest accepted byte count (R15). -/
def dmaMax : Nat := 0x8000

/-- The DMA engine raises line 7 (R320). -/
def dmaLine : Fin 16 := 7

/-- `n` bytes copied from `src` to `dst` through the MMU, ascending, one at a time, addresses modulo 2^16 (R350, R353). -/
def State.dmaCopy (s : State) : Nat → Word → Word → State
  | 0, _, _ => s
  | n + 1, src, dst => State.dmaCopy (s.memWrite8 dst (s.memRead8 src)) n (src + 1#16) (dst + 1#16)

/-- An accepted transfer: the copy, DONE, and line 7 if IRQEN is set (R350). -/
def State.dmaTransfer (s : State) : State :=
  let s1 := (s.dmaCopy (s.ioReg dmaPort 2).toNat (s.ioReg dmaPort 0) (s.ioReg dmaPort 1)).setIo dmaPort 4 0x0002
  if (s.ioReg dmaPort 3).getLsbD 1 then s1.raiseLine dmaLine else s1

/-- `DmaStep()`: idle while EN is clear; a count above the ceiling is rejected with ERR; EN clears itself (R350, R352). -/
def State.dmaStep (s : State) : State :=
  if (s.ioReg dmaPort 3).getLsbD 0 then
    let s1 := if dmaMax < (s.ioReg dmaPort 2).toNat then s.setIo dmaPort 4 0x0004 else s.dmaTransfer
    s1.setIo dmaPort 3 (s.ioReg dmaPort 3 &&& 0xFFFE)
  else s

end Sys2Proof.Machine
end

