-- ==== Sys2Proof/Machine/Pic.lean ====
section
/-! DEFINITION. The interrupt controller's step (60_exceptions.md R320 to R326). -/

namespace Sys2Proof.Machine

/-- The interrupt lines, in order of priority (R320, R325). -/
def irqLines : List (Fin 16) := [0, 1, 2, 3, 4, 5, 6, 7, 8, 9, 10, 11, 12, 13, 14, 15]

/-- The index of the lowest set bit, none for 0 (R324). -/
def lowestLine (cand : Word) : Option (Fin 16) := irqLines.find? fun l => cand.getLsbD l

/-- The EOI value applied: exactly the bits it names leave ISR, and EOI clears itself (R323). -/
def State.applyEoi (s : State) : State :=
  (s.setIo picPort 1 (s.ioReg picPort 1 &&& ~~~(s.ioReg picPort 3))).setIo picPort 3 0

/-- Line `l` moved from Requested to In-Service, its vector handed to the CPU (R324). -/
def State.selectLine (s : State) (l : Fin 16) : State :=
  ((s.setIo picPort 2 (s.ioReg picPort 2 &&& ~~~(BitVec.twoPow 16 l))).setIo picPort 1
    (s.ioReg picPort 1 ||| BitVec.twoPow 16 l)).setIrq true (s.ioReg picPort 4 + BitVec.ofNat 16 l)

/-- `PicStep()`: EOI first; then, only while no line is in service, the lowest requested unmasked line is selected (R324,
R325). -/
def State.picStep (s : State) : State :=
  let s1 := s.applyEoi
  if s1.ioReg picPort 1 = 0 then
    match lowestLine (s1.ioReg picPort 2 &&& ~~~(s1.ioReg picPort 0)) with
    | none => s1
    | some l => s1.selectLine l
  else s1

end Sys2Proof.Machine
end

