-- ==== Sys2Proof/Machine/Timer.lean ====
section
/-! DEFINITION. The three prescaled comparator timers (60_exceptions.md R340 to R344). -/

namespace Sys2Proof.Machine

/-- The divisor of a prescale value, PSC + 1 (R341). -/
def prescaleDivisor (psc : Word) : Nat := psc.toNat + 1

/-- Timer i raises line 4 + i (R320). -/
def timerLine (i : Fin 3) : Fin 16 := ⟨4 + i.val, by omega⟩

/-- One counted tick of timer `i`: the count changes first and is compared second; a comparator event reloads it and raises
line 4 + i (R341, R343). -/
def State.timerCount (s : State) (i : Fin 3) : State :=
  let p := timerPort i
  let down := (s.ioReg p 4).getLsbD 0
  let count := if down then s.ioReg p 0 - 1#16 else s.ioReg p 0 + 1#16
  let event := if down then decide (count ≤ s.ioReg p 2) else decide (s.ioReg p 2 ≤ count)
  if event then (s.setIo p 0 (s.ioReg p 3)).raiseLine (timerLine i) else s.setIo p 0 count

/-- `TimerStep(i)`: the timer counts in the cycles whose tick is a multiple of PSC + 1 (R341, R342). -/
def State.timerStep (s : State) (i : Fin 3) : State :=
  if s.tick.toNat % prescaleDivisor (s.ioReg (timerPort i) 1) = 0 then s.timerCount i else s

end Sys2Proof.Machine
end

