-- ==== Sys2Proof/Machine/Cycle.lean ====
section
/-! DEFINITION. The parts of one cycle around the execute phase: what precedes the fetch, fetch and decode, and the
peripheral steps (60_exceptions.md R300, R301; 30_encoding.md R96). -/

namespace Sys2Proof.Machine

/-- Before the fetch: a pending interrupt is entered (R300). -/
def State.beginCycle (s : State) : State := if s.irqPending then s.interruptEntry else s

/-- One word fetched at PC, which moves past it (R33, R96). -/
def State.fetchWord (s : State) : Word × State := (s.memRead16 s.pc, s.setPc (s.pc + 2#16))

/-- An extension word, fetched only where the extension table asks for one (R96). -/
def State.fetchExt (s : State) (wanted : Bool) : Word × State := if wanted then s.fetchWord else (0, s)

/-- `FetchDecode()`: the instruction at PC, and the state with PC past the last fetched word (R96). -/
def State.fetchDecode (s : State) : Instr × State :=
  let (w, s1) := s.fetchWord
  let (imm, s2) := s1.fetchExt (hasImm (classOf w) (tOf w))
  let (ext, s3) := s2.fetchExt (hasAddr (classOf w) (tOf w))
  (decodeWords w imm ext, s3)

/-- The peripheral steps in their fixed order (R301). -/
def State.peripheralSteps (s : State) : State :=
  ((((s.timerStep 0).timerStep 1).timerStep 2).dmaStep).picStep

/-- After the execute phase: the peripheral steps, then the tick (R300). -/
def State.endCycle (s : State) : State :=
  let s1 := s.peripheralSteps
  s1.setTick (s1.tick + 1#32)

end Sys2Proof.Machine
end

