-- ==== Sys2Proof/Machine/Operands.lean ====
section
/-! DEFINITION. The operand forms and the placements of results that instructions share: register, immediate,
register-indirect and absolute operands (R92, R93, R94, R200), the shift amounts (R187, R190), and where a result goes
(R145 for ACC, class 4 for the named register). -/

namespace Sys2Proof.Machine

/-! ## Operand forms -/

/-- A register operand; R15 reads as the address of the next instruction (R33, R94). -/
def State.regOperand (s : State) (r : RegIx) : Word := s.reg r

/-- An immediate operand, used whole (R92). -/
def immOperand (imm : Word) : Word := imm

/-- The effective address of `[Ry]` (R200). -/
def State.indirectAddr (s : State) (y : RegIx) : Word := s.reg y

/-- The effective address of `[a]`: the extension word; bits 19:16 of the wide address are ignored (R93, R200). -/
def absoluteAddr (ext : Word) : Word := ext

/-- The shift amount of SHLI, SHRI, SARI, `zext_16(Y)` (R94). -/
def shiftImm (n : BitVec 4) : Word := n.zeroExtend 16

/-! ## Where results go -/

/-- The result to ACC and its flags to FLAGS (R145). -/
def State.putAcc (s : State) (r : AluResult) : State := (s.setReg accIx r.value).setFlags r.flags

/-- As `putAcc`; no result (a zero divisor) changes nothing (R144). -/
def State.putAcc? (s : State) : Option AluResult → State
  | none => s
  | some r => s.putAcc r

/-- The flags only: CMP, TST and their immediate forms discard the result (R145). -/
def State.putFlags (s : State) (r : AluResult) : State := s.setFlags r.flags

/-- The result to the named register and its flags to FLAGS (class 4). -/
def State.putReg (s : State) (x : RegIx) (r : AluResult) : State := (s.setReg x r.value).setFlags r.flags

/-! ## Loads and stores (R201 to R209) -/

/-- A 16-bit load into a register. -/
def State.load16 (s : State) (x : RegIx) (a : Word) : State := s.setReg x (s.memRead16 a)

/-- A byte load into a register, zero-extended. -/
def State.load8 (s : State) (x : RegIx) (a : Word) : State := s.setReg x ((s.memRead8 a).zeroExtend 16)

/-- A 16-bit store. -/
def State.store16 (s : State) (a v : Word) : State := s.memWrite16 a v

/-- A store of the low byte. -/
def State.store8 (s : State) (a v : Word) : State := s.memWrite8 a (loByte v)

/-! ## Jumps and calls (R232 to R235) -/

/-- `if Cond(t): PC <- target`. -/
def State.jumpIf (s : State) (c : Cond) (target : Word) : State :=
  if condHolds c s.flags then s.setPc target else s

/-- `if Cond(t): Push16(PC); PC <- target`, the target read before SP changes. -/
def State.callIf (s : State) (c : Cond) (target : Word) : State :=
  if condHolds c s.flags then (s.push16 s.pc).setPc target else s

end Sys2Proof.Machine
end

