-- ==== Sys2Proof/Machine/Alu.lean ====
section
/-! DEFINITION. Class 2, ALU instructions on two registers, result to ACC (42_alu.md). -/

namespace Sys2Proof.Machine

/-- `ADD Rx, Ry` (R150). -/
def execAdd (x : RegIx) (y : RegIx) (s : State) : Host.Outcome State Fault Refusal :=
  .next (s.putAcc (addOp (s.regOperand x) (s.regOperand y)))

/-- `SUB Rx, Ry` (R151). -/
def execSub (x : RegIx) (y : RegIx) (s : State) : Host.Outcome State Fault Refusal :=
  .next (s.putAcc (subOp (s.regOperand x) (s.regOperand y)))

/-- `MUL Rx, Ry` (R152). -/
def execMul (x : RegIx) (y : RegIx) (s : State) : Host.Outcome State Fault Refusal :=
  .next (s.putAcc (mulOp (s.regOperand x) (s.regOperand y)))

/-- `DIV Rx, Ry` (R153): a zero divisor changes nothing. -/
def execDiv (x : RegIx) (y : RegIx) (s : State) : Host.Outcome State Fault Refusal :=
  .next (s.putAcc? (divOp (s.regOperand x) (s.regOperand y)))

/-- `MOD Rx, Ry` (R154): a zero divisor changes nothing. -/
def execMod (x : RegIx) (y : RegIx) (s : State) : Host.Outcome State Fault Refusal :=
  .next (s.putAcc? (modOp (s.regOperand x) (s.regOperand y)))

/-- `AND Rx, Ry` (R155). -/
def execAnd (x : RegIx) (y : RegIx) (s : State) : Host.Outcome State Fault Refusal :=
  .next (s.putAcc (logicOp ((s.regOperand x) &&& (s.regOperand y))))

/-- `OR Rx, Ry` (R156). -/
def execOr (x : RegIx) (y : RegIx) (s : State) : Host.Outcome State Fault Refusal :=
  .next (s.putAcc (logicOp ((s.regOperand x) ||| (s.regOperand y))))

/-- `XOR Rx, Ry` (R157). -/
def execXor (x : RegIx) (y : RegIx) (s : State) : Host.Outcome State Fault Refusal :=
  .next (s.putAcc (logicOp ((s.regOperand x) ^^^ (s.regOperand y))))

/-- `CMP Rx, Ry` (R158): ACC is not written. -/
def execCmp (x : RegIx) (y : RegIx) (s : State) : Host.Outcome State Fault Refusal :=
  .next (s.putFlags (subOp (s.regOperand x) (s.regOperand y)))

/-- `TST Rx, Ry` (R159): ACC is not written. -/
def execTst (x : RegIx) (y : RegIx) (s : State) : Host.Outcome State Fault Refusal :=
  .next (s.putFlags (logicOp ((s.regOperand x) &&& (s.regOperand y))))

end Sys2Proof.Machine
end

