-- ==== Sys2Proof/Machine/AluImm.lean ====
section
/-! DEFINITION. Class 3, ALU instructions with an immediate, result to ACC (42_alu.md). -/

namespace Sys2Proof.Machine

/-- `ADDI Rx, #imm` (R160). -/
def execAddi (x : RegIx) (imm : Word) (s : State) : Host.Outcome State Fault Refusal :=
  .next (s.putAcc (addOp (s.regOperand x) (immOperand imm)))

/-- `SUBI Rx, #imm` (R161). -/
def execSubi (x : RegIx) (imm : Word) (s : State) : Host.Outcome State Fault Refusal :=
  .next (s.putAcc (subOp (s.regOperand x) (immOperand imm)))

/-- `MULI Rx, #imm` (R162). -/
def execMuli (x : RegIx) (imm : Word) (s : State) : Host.Outcome State Fault Refusal :=
  .next (s.putAcc (mulOp (s.regOperand x) (immOperand imm)))

/-- `DIVI Rx, #imm` (R163): a zero immediate changes nothing. -/
def execDivi (x : RegIx) (imm : Word) (s : State) : Host.Outcome State Fault Refusal :=
  .next (s.putAcc? (divOp (s.regOperand x) (immOperand imm)))

/-- `MODI Rx, #imm` (R164): a zero immediate changes nothing. -/
def execModi (x : RegIx) (imm : Word) (s : State) : Host.Outcome State Fault Refusal :=
  .next (s.putAcc? (modOp (s.regOperand x) (immOperand imm)))

/-- `ANDI Rx, #imm` (R165). -/
def execAndi (x : RegIx) (imm : Word) (s : State) : Host.Outcome State Fault Refusal :=
  .next (s.putAcc (logicOp ((s.regOperand x) &&& (immOperand imm))))

/-- `ORI Rx, #imm` (R166). -/
def execOri (x : RegIx) (imm : Word) (s : State) : Host.Outcome State Fault Refusal :=
  .next (s.putAcc (logicOp ((s.regOperand x) ||| (immOperand imm))))

/-- `XORI Rx, #imm` (R167). -/
def execXori (x : RegIx) (imm : Word) (s : State) : Host.Outcome State Fault Refusal :=
  .next (s.putAcc (logicOp ((s.regOperand x) ^^^ (immOperand imm))))

/-- `CMPI Rx, #imm` (R168): ACC is not written. -/
def execCmpi (x : RegIx) (imm : Word) (s : State) : Host.Outcome State Fault Refusal :=
  .next (s.putFlags (subOp (s.regOperand x) (immOperand imm)))

/-- `TSTI Rx, #imm` (R169): ACC is not written. -/
def execTsti (x : RegIx) (imm : Word) (s : State) : Host.Outcome State Fault Refusal :=
  .next (s.putFlags (logicOp ((s.regOperand x) &&& (immOperand imm))))

end Sys2Proof.Machine
end

