-- ==== Sys2Proof/Machine/CallAddr.lean ====
section
/-! DEFINITION. Class A, conditional calls to a wide address (46_control.md R235). -/

namespace Sys2Proof.Machine

/-- `CALL a`, `a = ext` (R235). -/
def execCall (ext : Word) (s : State) : Host.Outcome State Fault Refusal :=
  .next (s.callIf .al (absoluteAddr ext))

/-- `CALLEQ a`, `a = ext` (R235). -/
def execCalleq (ext : Word) (s : State) : Host.Outcome State Fault Refusal :=
  .next (s.callIf .eq (absoluteAddr ext))

/-- `CALLNE a`, `a = ext` (R235). -/
def execCallne (ext : Word) (s : State) : Host.Outcome State Fault Refusal :=
  .next (s.callIf .ne (absoluteAddr ext))

/-- `CALLCS a`, `a = ext` (R235). -/
def execCallcs (ext : Word) (s : State) : Host.Outcome State Fault Refusal :=
  .next (s.callIf .cs (absoluteAddr ext))

/-- `CALLCC a`, `a = ext` (R235). -/
def execCallcc (ext : Word) (s : State) : Host.Outcome State Fault Refusal :=
  .next (s.callIf .cc (absoluteAddr ext))

/-- `CALLVS a`, `a = ext` (R235). -/
def execCallvs (ext : Word) (s : State) : Host.Outcome State Fault Refusal :=
  .next (s.callIf .vs (absoluteAddr ext))

/-- `CALLVC a`, `a = ext` (R235). -/
def execCallvc (ext : Word) (s : State) : Host.Outcome State Fault Refusal :=
  .next (s.callIf .vc (absoluteAddr ext))

/-- `CALLGT a`, `a = ext` (R235). -/
def execCallgt (ext : Word) (s : State) : Host.Outcome State Fault Refusal :=
  .next (s.callIf .gt (absoluteAddr ext))

/-- `CALLLT a`, `a = ext` (R235). -/
def execCalllt (ext : Word) (s : State) : Host.Outcome State Fault Refusal :=
  .next (s.callIf .lt (absoluteAddr ext))

/-- `CALLGE a`, `a = ext` (R235). -/
def execCallge (ext : Word) (s : State) : Host.Outcome State Fault Refusal :=
  .next (s.callIf .ge (absoluteAddr ext))

/-- `CALLLE a`, `a = ext` (R235). -/
def execCallle (ext : Word) (s : State) : Host.Outcome State Fault Refusal :=
  .next (s.callIf .le (absoluteAddr ext))

/-- `CALLHI a`, `a = ext` (R235). -/
def execCallhi (ext : Word) (s : State) : Host.Outcome State Fault Refusal :=
  .next (s.callIf .hi (absoluteAddr ext))

/-- `CALLLS a`, `a = ext` (R235). -/
def execCallls (ext : Word) (s : State) : Host.Outcome State Fault Refusal :=
  .next (s.callIf .ls (absoluteAddr ext))

/-- `CALLMI a`, `a = ext` (R235). -/
def execCallmi (ext : Word) (s : State) : Host.Outcome State Fault Refusal :=
  .next (s.callIf .mi (absoluteAddr ext))

/-- `CALLPL a`, `a = ext` (R235). -/
def execCallpl (ext : Word) (s : State) : Host.Outcome State Fault Refusal :=
  .next (s.callIf .pl (absoluteAddr ext))

/-- `CALLNV a`, `a = ext` (R235). -/
def execCallnv (ext : Word) (s : State) : Host.Outcome State Fault Refusal :=
  .next (s.callIf .nv (absoluteAddr ext))

end Sys2Proof.Machine
end

