-- ==== Sys2Proof/Machine/CallReg.lean ====
section
/-! DEFINITION. Class 9, conditional calls to a register (46_control.md R234). -/

namespace Sys2Proof.Machine

/-- `CALLR Rx` (R234). -/
def execCallr (x : RegIx) (s : State) : Host.Outcome State Fault Refusal :=
  .next (s.callIf .al (s.regOperand x))

/-- `CALLEQR Rx` (R234). -/
def execCalleqr (x : RegIx) (s : State) : Host.Outcome State Fault Refusal :=
  .next (s.callIf .eq (s.regOperand x))

/-- `CALLNER Rx` (R234). -/
def execCallner (x : RegIx) (s : State) : Host.Outcome State Fault Refusal :=
  .next (s.callIf .ne (s.regOperand x))

/-- `CALLCSR Rx` (R234). -/
def execCallcsr (x : RegIx) (s : State) : Host.Outcome State Fault Refusal :=
  .next (s.callIf .cs (s.regOperand x))

/-- `CALLCCR Rx` (R234). -/
def execCallccr (x : RegIx) (s : State) : Host.Outcome State Fault Refusal :=
  .next (s.callIf .cc (s.regOperand x))

/-- `CALLVSR Rx` (R234). -/
def execCallvsr (x : RegIx) (s : State) : Host.Outcome State Fault Refusal :=
  .next (s.callIf .vs (s.regOperand x))

/-- `CALLVCR Rx` (R234). -/
def execCallvcr (x : RegIx) (s : State) : Host.Outcome State Fault Refusal :=
  .next (s.callIf .vc (s.regOperand x))

/-- `CALLGTR Rx` (R234). -/
def execCallgtr (x : RegIx) (s : State) : Host.Outcome State Fault Refusal :=
  .next (s.callIf .gt (s.regOperand x))

/-- `CALLLTR Rx` (R234). -/
def execCallltr (x : RegIx) (s : State) : Host.Outcome State Fault Refusal :=
  .next (s.callIf .lt (s.regOperand x))

/-- `CALLGER Rx` (R234). -/
def execCallger (x : RegIx) (s : State) : Host.Outcome State Fault Refusal :=
  .next (s.callIf .ge (s.regOperand x))

/-- `CALLLER Rx` (R234). -/
def execCalller (x : RegIx) (s : State) : Host.Outcome State Fault Refusal :=
  .next (s.callIf .le (s.regOperand x))

/-- `CALLHIR Rx` (R234). -/
def execCallhir (x : RegIx) (s : State) : Host.Outcome State Fault Refusal :=
  .next (s.callIf .hi (s.regOperand x))

/-- `CALLLSR Rx` (R234). -/
def execCalllsr (x : RegIx) (s : State) : Host.Outcome State Fault Refusal :=
  .next (s.callIf .ls (s.regOperand x))

/-- `CALLMIR Rx` (R234). -/
def execCallmir (x : RegIx) (s : State) : Host.Outcome State Fault Refusal :=
  .next (s.callIf .mi (s.regOperand x))

/-- `CALLPLR Rx` (R234). -/
def execCallplr (x : RegIx) (s : State) : Host.Outcome State Fault Refusal :=
  .next (s.callIf .pl (s.regOperand x))

/-- `CALLNVR Rx` (R234). -/
def execCallnvr (x : RegIx) (s : State) : Host.Outcome State Fault Refusal :=
  .next (s.callIf .nv (s.regOperand x))

end Sys2Proof.Machine
end

