-- ==== Sys2Proof/Machine/Io.lean ====
section
/-! DEFINITION. Classes B and C, I/O register access (47_io.md). -/

namespace Sys2Proof.Machine

/-- `IN Rx, p, r` (R250): the read has no side effect. -/
def execIoIn (x : RegIx) (p : IoIx) (r : IoIx) (s : State) : Host.Outcome State Fault Refusal :=
  .next (s.setReg x (s.ioReg p r))

/-- `OUT Rx, p, r` (R251): the whole 16-bit value is stored; devices see it in their own steps (R252). -/
def execIoOut (x : RegIx) (p : IoIx) (r : IoIx) (s : State) : Host.Outcome State Fault Refusal :=
  .next (s.setIo p r (s.regOperand x))

end Sys2Proof.Machine
end

