-- ==== Sys2Proof/Machine/JumpAddr.lean ====
section
/-! DEFINITION. Class 8, conditional jumps to a wide address (46_control.md R233). -/

namespace Sys2Proof.Machine

/-- `JMP a`, `a = ext` (R233). -/
def execJmp (ext : Word) (s : State) : Host.Outcome State Fault Refusal :=
  .next (s.jumpIf .al (absoluteAddr ext))

/-- `JEQ a`, `a = ext` (R233). -/
def execJeq (ext : Word) (s : State) : Host.Outcome State Fault Refusal :=
  .next (s.jumpIf .eq (absoluteAddr ext))

/-- `JNE a`, `a = ext` (R233). -/
def execJne (ext : Word) (s : State) : Host.Outcome State Fault Refusal :=
  .next (s.jumpIf .ne (absoluteAddr ext))

/-- `JCS a`, `a = ext` (R233). -/
def execJcs (ext : Word) (s : State) : Host.Outcome State Fault Refusal :=
  .next (s.jumpIf .cs (absoluteAddr ext))

/-- `JCC a`, `a = ext` (R233). -/
def execJcc (ext : Word) (s : State) : Host.Outcome State Fault Refusal :=
  .next (s.jumpIf .cc (absoluteAddr ext))

/-- `JVS a`, `a = ext` (R233). -/
def execJvs (ext : Word) (s : State) : Host.Outcome State Fault Refusal :=
  .next (s.jumpIf .vs (absoluteAddr ext))

/-- `JVC a`, `a = ext` (R233). -/
def execJvc (ext : Word) (s : State) : Host.Outcome State Fault Refusal :=
  .next (s.jumpIf .vc (absoluteAddr ext))

/-- `JGT a`, `a = ext` (R233). -/
def execJgt (ext : Word) (s : State) : Host.Outcome State Fault Refusal :=
  .next (s.jumpIf .gt (absoluteAddr ext))

/-- `JLT a`, `a = ext` (R233). -/
def execJlt (ext : Word) (s : State) : Host.Outcome State Fault Refusal :=
  .next (s.jumpIf .lt (absoluteAddr ext))

/-- `JGE a`, `a = ext` (R233). -/
def execJge (ext : Word) (s : State) : Host.Outcome State Fault Refusal :=
  .next (s.jumpIf .ge (absoluteAddr ext))

/-- `JLE a`, `a = ext` (R233). -/
def execJle (ext : Word) (s : State) : Host.Outcome State Fault Refusal :=
  .next (s.jumpIf .le (absoluteAddr ext))

/-- `JHI a`, `a = ext` (R233). -/
def execJhi (ext : Word) (s : State) : Host.Outcome State Fault Refusal :=
  .next (s.jumpIf .hi (absoluteAddr ext))

/-- `JLS a`, `a = ext` (R233). -/
def execJls (ext : Word) (s : State) : Host.Outcome State Fault Refusal :=
  .next (s.jumpIf .ls (absoluteAddr ext))

/-- `JMI a`, `a = ext` (R233). -/
def execJmi (ext : Word) (s : State) : Host.Outcome State Fault Refusal :=
  .next (s.jumpIf .mi (absoluteAddr ext))

/-- `JPL a`, `a = ext` (R233). -/
def execJpl (ext : Word) (s : State) : Host.Outcome State Fault Refusal :=
  .next (s.jumpIf .pl (absoluteAddr ext))

/-- `JNV a`, `a = ext` (R233). -/
def execJnv (ext : Word) (s : State) : Host.Outcome State Fault Refusal :=
  .next (s.jumpIf .nv (absoluteAddr ext))

end Sys2Proof.Machine
end

