-- ==== Sys2Proof/Machine/JumpReg.lean ====
section
/-! DEFINITION. Class 7, conditional jumps to a register (46_control.md R232). Each condition of R230 is an instruction of the table. -/

namespace Sys2Proof.Machine

/-- `JMPR Rx` (R232). -/
def execJmpr (x : RegIx) (s : State) : Host.Outcome State Fault Refusal :=
  .next (s.jumpIf .al (s.regOperand x))

/-- `JEQR Rx` (R232). -/
def execJeqr (x : RegIx) (s : State) : Host.Outcome State Fault Refusal :=
  .next (s.jumpIf .eq (s.regOperand x))

/-- `JNER Rx` (R232). -/
def execJner (x : RegIx) (s : State) : Host.Outcome State Fault Refusal :=
  .next (s.jumpIf .ne (s.regOperand x))

/-- `JCSR Rx` (R232). -/
def execJcsr (x : RegIx) (s : State) : Host.Outcome State Fault Refusal :=
  .next (s.jumpIf .cs (s.regOperand x))

/-- `JCCR Rx` (R232). -/
def execJccr (x : RegIx) (s : State) : Host.Outcome State Fault Refusal :=
  .next (s.jumpIf .cc (s.regOperand x))

/-- `JVSR Rx` (R232). -/
def execJvsr (x : RegIx) (s : State) : Host.Outcome State Fault Refusal :=
  .next (s.jumpIf .vs (s.regOperand x))

/-- `JVCR Rx` (R232). -/
def execJvcr (x : RegIx) (s : State) : Host.Outcome State Fault Refusal :=
  .next (s.jumpIf .vc (s.regOperand x))

/-- `JGTR Rx` (R232). -/
def execJgtr (x : RegIx) (s : State) : Host.Outcome State Fault Refusal :=
  .next (s.jumpIf .gt (s.regOperand x))

/-- `JLTR Rx` (R232). -/
def execJltr (x : RegIx) (s : State) : Host.Outcome State Fault Refusal :=
  .next (s.jumpIf .lt (s.regOperand x))

/-- `JGER Rx` (R232). -/
def execJger (x : RegIx) (s : State) : Host.Outcome State Fault Refusal :=
  .next (s.jumpIf .ge (s.regOperand x))

/-- `JLER Rx` (R232). -/
def execJler (x : RegIx) (s : State) : Host.Outcome State Fault Refusal :=
  .next (s.jumpIf .le (s.regOperand x))

/-- `JHIR Rx` (R232). -/
def execJhir (x : RegIx) (s : State) : Host.Outcome State Fault Refusal :=
  .next (s.jumpIf .hi (s.regOperand x))

/-- `JLSR Rx` (R232). -/
def execJlsr (x : RegIx) (s : State) : Host.Outcome State Fault Refusal :=
  .next (s.jumpIf .ls (s.regOperand x))

/-- `JMIR Rx` (R232). -/
def execJmir (x : RegIx) (s : State) : Host.Outcome State Fault Refusal :=
  .next (s.jumpIf .mi (s.regOperand x))

/-- `JPLR Rx` (R232). -/
def execJplr (x : RegIx) (s : State) : Host.Outcome State Fault Refusal :=
  .next (s.jumpIf .pl (s.regOperand x))

/-- `JNVR Rx` (R232). -/
def execJnvr (x : RegIx) (s : State) : Host.Outcome State Fault Refusal :=
  .next (s.jumpIf .nv (s.regOperand x))

end Sys2Proof.Machine
end

