-- ==== Sys2Proof/Machine/LoadStore.lean ====
section
/-! DEFINITION. Class 5, loads and stores (44_load_store.md). -/

namespace Sys2Proof.Machine

/-- `LD Rx, [Ry]` (R201): the address is read before X is written. -/
def execLd (x : RegIx) (y : RegIx) (s : State) : Host.Outcome State Fault Refusal :=
  .next (s.load16 x (s.indirectAddr y))

/-- `ST Rx, [Ry]` (R202). -/
def execSt (x : RegIx) (y : RegIx) (s : State) : Host.Outcome State Fault Refusal :=
  .next (s.store16 (s.indirectAddr y) (s.regOperand x))

/-- `LDB Rx, [Ry]` (R203): zero-extended. -/
def execLdb (x : RegIx) (y : RegIx) (s : State) : Host.Outcome State Fault Refusal :=
  .next (s.load8 x (s.indirectAddr y))

/-- `STB Rx, [Ry]` (R204): bits 15:8 of X are ignored. -/
def execStb (x : RegIx) (y : RegIx) (s : State) : Host.Outcome State Fault Refusal :=
  .next (s.store8 (s.indirectAddr y) (s.regOperand x))

/-- `LDA Rx, [a]`, `a = ext` (R205). -/
def execLda (x : RegIx) (ext : Word) (s : State) : Host.Outcome State Fault Refusal :=
  .next (s.load16 x (absoluteAddr ext))

/-- `STA Rx, [a]`, `a = ext` (R206). -/
def execSta (x : RegIx) (ext : Word) (s : State) : Host.Outcome State Fault Refusal :=
  .next (s.store16 (absoluteAddr ext) (s.regOperand x))

/-- `LDBA Rx, [a]`, `a = ext` (R207): zero-extended. -/
def execLdba (x : RegIx) (ext : Word) (s : State) : Host.Outcome State Fault Refusal :=
  .next (s.load8 x (absoluteAddr ext))

/-- `STBA Rx, [a]`, `a = ext` (R208): bits 15:8 of X are ignored. -/
def execStba (x : RegIx) (ext : Word) (s : State) : Host.Outcome State Fault Refusal :=
  .next (s.store8 (absoluteAddr ext) (s.regOperand x))

/-- `STIA #imm, [a]`, `a = ext` (R209). -/
def execStia (imm : Word) (ext : Word) (s : State) : Host.Outcome State Fault Refusal :=
  .next (s.store16 (absoluteAddr ext) (immOperand imm))

end Sys2Proof.Machine
end

