-- ==== Sys2Proof/Machine/Move.lean ====
section
/-! DEFINITION. Class 1, register moves (41_move.md). -/

namespace Sys2Proof.Machine

/-- `MOV Rx, Ry` (R130): flags preserved. -/
def execMov (x : RegIx) (y : RegIx) (s : State) : Host.Outcome State Fault Refusal :=
  .next (s.setReg x (s.regOperand y))

/-- `MOVI Rx, #imm` (R131): flags preserved. -/
def execMovi (x : RegIx) (imm : Word) (s : State) : Host.Outcome State Fault Refusal :=
  .next (s.setReg x (immOperand imm))

end Sys2Proof.Machine
end

