-- ==== Sys2Proof/Machine/Stack.lean ====
section
/-! DEFINITION. Class 6, stack instructions (45_stack.md). -/

namespace Sys2Proof.Machine

/-- `PUSH Rx` (R221): the value is read before SP moves, so `PUSH SP` pushes the old SP. -/
def execPush (x : RegIx) (s : State) : Host.Outcome State Fault Refusal :=
  .next (s.push16 (s.regOperand x))

/-- `POP Rx` (R222): the register is written after SP moves, so `POP SP` leaves the popped value. -/
def execPop (x : RegIx) (s : State) : Host.Outcome State Fault Refusal :=
  .next (s.pop16.2.setReg x s.pop16.1)

/-- `PUSHF` (R223): the flags image. -/
def execPushf (s : State) : Host.Outcome State Fault Refusal :=
  .next (s.push16 s.flags.image)

/-- `POPF` (R224): bits 15:4 of the cell are ignored. -/
def execPopf (s : State) : Host.Outcome State Fault Refusal :=
  .next (s.pop16.2.setFlags (Flags.ofImage s.pop16.1))

end Sys2Proof.Machine
end

