-- ==== Sys2Proof/Machine/System.lean ====
section
/-! DEFINITION. Class 0, the system instructions (40_system.md). -/

namespace Sys2Proof.Machine

/-- `NOP` (R120): nothing changes but the pc, which fetch has advanced. -/
def execNop (s : State) : Host.Outcome State Fault Refusal :=
  .next s

/-- `HALT` (R121): the pc goes back over the HALT word and `halted` is set; the cycle's peripheral steps still run. -/
def execHalt (s : State) : Host.Outcome State Fault Refusal :=
  .next ((s.setPc (s.pc - 2#16)).setHalted)

/-- `RET` (R122): PC from the popped cell. -/
def execRet (s : State) : Host.Outcome State Fault Refusal :=
  .next (s.pop16.2.setPc s.pop16.1)

/-- `RETI` (R123): FLAGS and PC popped, the inverse of interrupt entry; the PIC is not written. -/
def execReti (s : State) : Host.Outcome State Fault Refusal :=
  .next s.interruptReturn

end Sys2Proof.Machine
end

