-- ==== Sys2Proof/Machine/Unary.lean ====
section
/-! DEFINITION. Class 4, unary and shift instructions, result to the named register (43_unary_shift.md). -/

namespace Sys2Proof.Machine

/-- `INC Rx` (R183). -/
def execInc (x : RegIx) (s : State) : Host.Outcome State Fault Refusal :=
  .next (s.putReg x (addOp (s.regOperand x) 1#16))

/-- `DEC Rx` (R184). -/
def execDec (x : RegIx) (s : State) : Host.Outcome State Fault Refusal :=
  .next (s.putReg x (subOp (s.regOperand x) 1#16))

/-- `NOT Rx` (R185). -/
def execNot (x : RegIx) (s : State) : Host.Outcome State Fault Refusal :=
  .next (s.putReg x (logicOp (~~~(s.regOperand x))))

/-- `NEG Rx` (R186). -/
def execNeg (x : RegIx) (s : State) : Host.Outcome State Fault Refusal :=
  .next (s.putReg x (subOp 0#16 (s.regOperand x)))

/-- `SHL Rx, Ry` (R187). -/
def execShl (x : RegIx) (y : RegIx) (s : State) : Host.Outcome State Fault Refusal :=
  .next (s.putReg x (shlOp (s.regOperand x) (s.regOperand y)))

/-- `SHR Rx, Ry` (R188). -/
def execShr (x : RegIx) (y : RegIx) (s : State) : Host.Outcome State Fault Refusal :=
  .next (s.putReg x (shrOp (s.regOperand x) (s.regOperand y)))

/-- `SAR Rx, Ry` (R189). -/
def execSar (x : RegIx) (y : RegIx) (s : State) : Host.Outcome State Fault Refusal :=
  .next (s.putReg x (sarOp (s.regOperand x) (s.regOperand y)))

/-- `SHLI Rx, #n` (R190). -/
def execShli (x : RegIx) (n : BitVec 4) (s : State) : Host.Outcome State Fault Refusal :=
  .next (s.putReg x (shlOp (s.regOperand x) (shiftImm n)))

/-- `SHRI Rx, #n` (R191). -/
def execShri (x : RegIx) (n : BitVec 4) (s : State) : Host.Outcome State Fault Refusal :=
  .next (s.putReg x (shrOp (s.regOperand x) (shiftImm n)))

/-- `SARI Rx, #n` (R192). -/
def execSari (x : RegIx) (n : BitVec 4) (s : State) : Host.Outcome State Fault Refusal :=
  .next (s.putReg x (sarOp (s.regOperand x) (shiftImm n)))

end Sys2Proof.Machine
end

