-- ==== Sys2Proof/Machine/Undefined.lean ====
section
/-! DEFINITION. The undefined encodings: one-word no-ops that never trap (R124, R253, R103). -/

namespace Sys2Proof.Machine

/-- Undefined class-0 word `0x0004` to `0x0FFF`, given by its low twelve bits (R124): a one-word no-op. -/
def execUndefSystem (_low : BitVec 12) (s : State) : Host.Outcome State Fault Refusal :=
  .next s

/-- Undefined class-1 sub-opcode, `t` at least 2 (R253): a one-word no-op. -/
def execUndefMove (_t : BitVec 4) (s : State) : Host.Outcome State Fault Refusal :=
  .next s

/-- Undefined class-2 sub-opcode, `t` at least 10 (R253): a one-word no-op. -/
def execUndefAlu (_t : BitVec 4) (s : State) : Host.Outcome State Fault Refusal :=
  .next s

/-- Undefined class-3 sub-opcode, `t` at least 10 (R253): a one-word no-op. -/
def execUndefAluImm (_t : BitVec 4) (s : State) : Host.Outcome State Fault Refusal :=
  .next s

/-- Undefined class-4 sub-opcode, `t` at least 10 (R253): a one-word no-op. -/
def execUndefUnary (_t : BitVec 4) (s : State) : Host.Outcome State Fault Refusal :=
  .next s

/-- Undefined class-5 sub-opcode, `t` at least 9 (R253): a one-word no-op. -/
def execUndefLoadStore (_t : BitVec 4) (s : State) : Host.Outcome State Fault Refusal :=
  .next s

/-- Undefined class-6 sub-opcode, `t` at least 4 (R253): a one-word no-op. -/
def execUndefStack (_t : BitVec 4) (s : State) : Host.Outcome State Fault Refusal :=
  .next s

/-- Any word of class 0xD (R253): a one-word no-op. -/
def execUndefClassD (s : State) : Host.Outcome State Fault Refusal :=
  .next s

/-- Any word of class 0xE (R253): a one-word no-op. -/
def execUndefClassE (s : State) : Host.Outcome State Fault Refusal :=
  .next s

/-- Any word of class 0xF (R253): a one-word no-op. -/
def execUndefClassF (s : State) : Host.Outcome State Fault Refusal :=
  .next s

end Sys2Proof.Machine
end

