-- ==== Sys2Proof/Machine/Dispatch.lean ====
section
/-! DEFINITION. The execute phase, one arm per instruction: the state after the fetch in, the state after the instruction's
own effect out (R300). -/

namespace Sys2Proof.Machine

def exec (i : Instr) (s : State) : Host.Outcome State Fault Refusal :=
  match i with
  | .nop => Sys2Proof.Machine.execNop s
  | .halt => Sys2Proof.Machine.execHalt s
  | .ret => Sys2Proof.Machine.execRet s
  | .reti => Sys2Proof.Machine.execReti s
  | .mov x y => Sys2Proof.Machine.execMov x y s
  | .movi x imm => Sys2Proof.Machine.execMovi x imm s
  | .add x y => Sys2Proof.Machine.execAdd x y s
  | .sub x y => Sys2Proof.Machine.execSub x y s
  | .mul x y => Sys2Proof.Machine.execMul x y s
  | .div x y => Sys2Proof.Machine.execDiv x y s
  | .mod x y => Sys2Proof.Machine.execMod x y s
  | .and x y => Sys2Proof.Machine.execAnd x y s
  | .or x y => Sys2Proof.Machine.execOr x y s
  | .xor x y => Sys2Proof.Machine.execXor x y s
  | .cmp x y => Sys2Proof.Machine.execCmp x y s
  | .tst x y => Sys2Proof.Machine.execTst x y s
  | .addi x imm => Sys2Proof.Machine.execAddi x imm s
  | .subi x imm => Sys2Proof.Machine.execSubi x imm s
  | .muli x imm => Sys2Proof.Machine.execMuli x imm s
  | .divi x imm => Sys2Proof.Machine.execDivi x imm s
  | .modi x imm => Sys2Proof.Machine.execModi x imm s
  | .andi x imm => Sys2Proof.Machine.execAndi x imm s
  | .ori x imm => Sys2Proof.Machine.execOri x imm s
  | .xori x imm => Sys2Proof.Machine.execXori x imm s
  | .cmpi x imm => Sys2Proof.Machine.execCmpi x imm s
  | .tsti x imm => Sys2Proof.Machine.execTsti x imm s
  | .inc x => Sys2Proof.Machine.execInc x s
  | .dec x => Sys2Proof.Machine.execDec x s
  | .not x => Sys2Proof.Machine.execNot x s
  | .neg x => Sys2Proof.Machine.execNeg x s
  | .shl x y => Sys2Proof.Machine.execShl x y s
  | .shr x y => Sys2Proof.Machine.execShr x y s
  | .sar x y => Sys2Proof.Machine.execSar x y s
  | .shli x n => Sys2Proof.Machine.execShli x n s
  | .shri x n => Sys2Proof.Machine.execShri x n s
  | .sari x n => Sys2Proof.Machine.execSari x n s
  | .ld x y => Sys2Proof.Machine.execLd x y s
  | .st x y => Sys2Proof.Machine.execSt x y s
  | .ldb x y => Sys2Proof.Machine.execLdb x y s
  | .stb x y => Sys2Proof.Machine.execStb x y s
  | .lda x ext => Sys2Proof.Machine.execLda x ext s
  | .sta x ext => Sys2Proof.Machine.execSta x ext s
  | .ldba x ext => Sys2Proof.Machine.execLdba x ext s
  | .stba x ext => Sys2Proof.Machine.execStba x ext s
  | .stia imm ext => Sys2Proof.Machine.execStia imm ext s
  | .push x => Sys2Proof.Machine.execPush x s
  | .pop x => Sys2Proof.Machine.execPop x s
  | .pushf => Sys2Proof.Machine.execPushf s
  | .popf => Sys2Proof.Machine.execPopf s
  | .jmpr x => Sys2Proof.Machine.execJmpr x s
  | .jeqr x => Sys2Proof.Machine.execJeqr x s
  | .jner x => Sys2Proof.Machine.execJner x s
  | .jcsr x => Sys2Proof.Machine.execJcsr x s
  | .jccr x => Sys2Proof.Machine.execJccr x s
  | .jvsr x => Sys2Proof.Machine.execJvsr x s
  | .jvcr x => Sys2Proof.Machine.execJvcr x s
  | .jgtr x => Sys2Proof.Machine.execJgtr x s
  | .jltr x => Sys2Proof.Machine.execJltr x s
  | .jger x => Sys2Proof.Machine.execJger x s
  | .jler x => Sys2Proof.Machine.execJler x s
  | .jhir x => Sys2Proof.Machine.execJhir x s
  | .jlsr x => Sys2Proof.Machine.execJlsr x s
  | .jmir x => Sys2Proof.Machine.execJmir x s
  | .jplr x => Sys2Proof.Machine.execJplr x s
  | .jnvr x => Sys2Proof.Machine.execJnvr x s
  | .jmp ext => Sys2Proof.Machine.execJmp ext s
  | .jeq ext => Sys2Proof.Machine.execJeq ext s
  | .jne ext => Sys2Proof.Machine.execJne ext s
  | .jcs ext => Sys2Proof.Machine.execJcs ext s
  | .jcc ext => Sys2Proof.Machine.execJcc ext s
  | .jvs ext => Sys2Proof.Machine.execJvs ext s
  | .jvc ext => Sys2Proof.Machine.execJvc ext s
  | .jgt ext => Sys2Proof.Machine.execJgt ext s
  | .jlt ext => Sys2Proof.Machine.execJlt ext s
  | .jge ext => Sys2Proof.Machine.execJge ext s
  | .jle ext => Sys2Proof.Machine.execJle ext s
  | .jhi ext => Sys2Proof.Machine.execJhi ext s
  | .jls ext => Sys2Proof.Machine.execJls ext s
  | .jmi ext => Sys2Proof.Machine.execJmi ext s
  | .jpl ext => Sys2Proof.Machine.execJpl ext s
  | .jnv ext => Sys2Proof.Machine.execJnv ext s
  | .callr x => Sys2Proof.Machine.execCallr x s
  | .calleqr x => Sys2Proof.Machine.execCalleqr x s
  | .callner x => Sys2Proof.Machine.execCallner x s
  | .callcsr x => Sys2Proof.Machine.execCallcsr x s
  | .callccr x => Sys2Proof.Machine.execCallccr x s
  | .callvsr x => Sys2Proof.Machine.execCallvsr x s
  | .callvcr x => Sys2Proof.Machine.execCallvcr x s
  | .callgtr x => Sys2Proof.Machine.execCallgtr x s
  | .callltr x => Sys2Proof.Machine.execCallltr x s
  | .callger x => Sys2Proof.Machine.execCallger x s
  | .calller x => Sys2Proof.Machine.execCalller x s
  | .callhir x => Sys2Proof.Machine.execCallhir x s
  | .calllsr x => Sys2Proof.Machine.execCalllsr x s
  | .callmir x => Sys2Proof.Machine.execCallmir x s
  | .callplr x => Sys2Proof.Machine.execCallplr x s
  | .callnvr x => Sys2Proof.Machine.execCallnvr x s
  | .call ext => Sys2Proof.Machine.execCall ext s
  | .calleq ext => Sys2Proof.Machine.execCalleq ext s
  | .callne ext => Sys2Proof.Machine.execCallne ext s
  | .callcs ext => Sys2Proof.Machine.execCallcs ext s
  | .callcc ext => Sys2Proof.Machine.execCallcc ext s
  | .callvs ext => Sys2Proof.Machine.execCallvs ext s
  | .callvc ext => Sys2Proof.Machine.execCallvc ext s
  | .callgt ext => Sys2Proof.Machine.execCallgt ext s
  | .calllt ext => Sys2Proof.Machine.execCalllt ext s
  | .callge ext => Sys2Proof.Machine.execCallge ext s
  | .callle ext => Sys2Proof.Machine.execCallle ext s
  | .callhi ext => Sys2Proof.Machine.execCallhi ext s
  | .callls ext => Sys2Proof.Machine.execCallls ext s
  | .callmi ext => Sys2Proof.Machine.execCallmi ext s
  | .callpl ext => Sys2Proof.Machine.execCallpl ext s
  | .callnv ext => Sys2Proof.Machine.execCallnv ext s
  | .ioIn x p r => Sys2Proof.Machine.execIoIn x p r s
  | .ioOut x p r => Sys2Proof.Machine.execIoOut x p r s
  | .undefSystem low => Sys2Proof.Machine.execUndefSystem low s
  | .undefMove t => Sys2Proof.Machine.execUndefMove t s
  | .undefAlu t => Sys2Proof.Machine.execUndefAlu t s
  | .undefAluImm t => Sys2Proof.Machine.execUndefAluImm t s
  | .undefUnary t => Sys2Proof.Machine.execUndefUnary t s
  | .undefLoadStore t => Sys2Proof.Machine.execUndefLoadStore t s
  | .undefStack t => Sys2Proof.Machine.execUndefStack t s
  | .undefClassD => Sys2Proof.Machine.execUndefClassD s
  | .undefClassE => Sys2Proof.Machine.execUndefClassE s
  | .undefClassF => Sys2Proof.Machine.execUndefClassF s

end Sys2Proof.Machine
end

