-- ==== Sys2Proof/Machine/Placement.lean ====
section
/-! DEFINITION. Placing an instruction where the next fetch reads it, for tests: what a program image does in the machine
(R412; log entries 1 and 7). -/

namespace Sys2Proof.Machine

/-- The half of `a` mapped: its record is left alone if it maps a bank, and set to ROM bank 0 if it does not, since nothing
can be fetched from an unmapped half (R63). -/
def State.mapHalf (s : State) (a : Word) : State :=
  match s.translate a with
  | some _ => s
  | none => (s.setIo mmuPort (kindReg a) 0).setIo mmuPort (bankReg a) 0

/-- A byte put where a read of `a` finds it, in ROM as the host's image would (R412). -/
def State.placeByte (s : State) (a : Word) (v : Byte) : State :=
  match s.translate a with
  | some l => s.setByteAt l v
  | none => s

/-- Bytes put at consecutive addresses. -/
def State.placeBytes (s : State) : Word → List Byte → State
  | _, [] => s
  | a, b :: bs => State.placeBytes (s.placeByte a b) (a + 1#16) bs

/-- The state made ready to fetch at its own PC: not halted, no interrupt to enter first, and the halves of the instruction's
first and last byte mapped. -/
def State.readyToFetch (s : State) : State :=
  ({ s with halted := false, irqPending := false }.mapHalf s.pc).mapHalf (s.pc + 5#16)

end Sys2Proof.Machine
end

