-- ==== Sys2Proof/Machine/Step.lean ====
section
/-! DEFINITION. One step of the machine: one call of the cycle driver, `Cycle()` (60_exceptions.md R300). -/

namespace Sys2Proof.Machine

/-- `Cycle()`: a halted machine does not change (R300, R303); otherwise a pending interrupt is entered, one instruction is
fetched, decoded and executed, the peripherals step and the tick advances. -/
def step (s : State) : Host.Outcome State Fault Refusal :=
  if s.halted then .next s
  else
    let fetched := s.beginCycle.fetchDecode
    match exec fetched.1 fetched.2 with
    | .next s1 => .next s1.endCycle
    | .fault f => .fault f
    | .refused r => .refused r

/-- The state with the instruction whose bits are `w` (numbered as spec/opcode_table.json numbers them, the bits from `nbits`
up to the longest instruction 0) where `step` fetches its next instruction (log entry 7). -/
def State.withFetchWord (s : State) (nbits w : Nat) : State :=
  s.readyToFetch.placeBytes s.readyToFetch.pc (tableBytes nbits w)

end Sys2Proof.Machine
end

