-- ==== Sys2Proof/Machine/HostMoves.lean ====
section
/-! DEFINITION. What the host may do between two cycles besides running one (70_reset_and_hazards.md R403, R412, R430,
R431). None of these is part of a step (log entry 4). -/

namespace Sys2Proof.Machine

/-- `InjectScancode(code)` (R430). -/
def State.injectScancode (s : State) (code : Word) : State := (s.setIo kbdPort 0 code).setIo kbdPort 1 0x0001

/-- A later reset: every register and I/O register at its reset value, the contents of the backing stores as they were
(R403). -/
def State.reapplyReset (s : State) : State := { State.powerOn s.banks s.rom s.disk with ram := s.ram }

/-- `Reset(rom, disk)` after power-on, with new images in place of the old (R412, R431); RAM as it was (R403). -/
def State.resetWithImages (s : State) (romImage diskImage : Memory) : State :=
  { State.powerOn s.banks romImage diskImage with ram := s.ram }

end Sys2Proof.Machine
end

