-- ==== Sys2Proof/Safety.lean ====
section
/-! DEFINITION. What counts as a safe state and a safe step, and the words the statements use for what a step leaves as it
was. -/

namespace Sys2Proof.Machine

/-- The state's invariant: at least one bank of each kind (R11), and each store in canonical form with every listed byte in
one of its banks (R50). -/
abbrev State.wf (s : State) : Prop :=
  s.banks.wf ∧ (s.rom.wf ∧ s.rom.within s.banks.rom) ∧ (s.disk.wf ∧ s.disk.within s.banks.disk) ∧
    (s.ram.wf ∧ s.ram.within s.banks.ram)

/-- The step does not stop: neither a fault nor a refusal (R302, R310). -/
def Completes (o : Host.Outcome State Fault Refusal) : Prop := ∃ t, o = .next t

/-- Every register but the listed ones is as it was; R15, the PC, is one of the registers (R31). -/
def SameRegsBut (ds : List RegIx) (s t : State) : Prop := ∀ r, r ∉ ds → t.reg r = s.reg r

/-- Every I/O register is as it was. -/
def SameIo (s t : State) : Prop := ∀ p r, t.ioReg p r = s.ioReg p r

/-- The hidden CPU state (R39, R40, R42) and the bank counts (R11) are as they were. -/
def SameHidden (s t : State) : Prop :=
  t.halted = s.halted ∧ t.irqPending = s.irqPending ∧ t.irqVector = s.irqVector ∧ t.tick = s.tick ∧ t.banks = s.banks

/-- Every byte of memory is as it was: every byte of every backing store, and every address as read through the MMU. -/
def SameBytes (s t : State) : Prop := (∀ l, t.byteAt l = s.byteAt l) ∧ ∀ a, t.memRead8 a = s.memRead8 a

/-- Every byte of memory is as it was but the bytes stored at the addresses `as`: every byte of a backing store that none of
them translates to, and every address that none of them shares its location with. -/
def SameBytesBut (as : List Word) (s t : State) : Prop :=
  (∀ l, (∀ a ∈ as, s.translate a ≠ some l) → t.byteAt l = s.byteAt l) ∧
    ∀ b, (∀ a ∈ as, s.translate a ≠ s.translate b) → t.memRead8 b = s.memRead8 b

/-- The address is mapped to a store the machine can write, DISK or RAM (R63). -/
def State.canWrite (s : State) (a : Word) : Bool :=
  match s.translate a with
  | none => false
  | some l => l.kind.writable

/-- What address `a` reads as in `t` after the byte `v` is stored there in `s`: `v` where the store reaches writable memory,
what it read before where it is discarded (R63). -/
def ByteStored (s t : State) (a : Word) (v : Byte) : Prop :=
  t.memRead8 a = if s.canWrite a then v else s.memRead8 a

/-- What the two bytes of a 16-bit store read as afterwards, low byte at `a` (R65). -/
def WordStored (s t : State) (a v : Word) : Prop :=
  ByteStored s t a (v.extractLsb' 0 8) ∧ ByteStored s t (a + 1#16) (v.extractLsb' 8 8)

/-- Nothing but the registers in `ds` differs: the frame of an instruction that stores nothing. -/
def OnlyRegs (ds : List RegIx) (s t : State) : Prop :=
  SameRegsBut ds s t ∧ t.flags = s.flags ∧ SameIo s t ∧ SameHidden s t ∧ SameBytes s t

/-- As `OnlyRegs`, FLAGS left free. -/
def OnlyRegsAndFlags (ds : List RegIx) (s t : State) : Prop :=
  SameRegsBut ds s t ∧ SameIo s t ∧ SameHidden s t ∧ SameBytes s t

/-- Nothing but the registers in `ds` and the bytes stored at the addresses `as` differs. -/
def OnlyRegsAndBytes (ds : List RegIx) (as : List Word) (s t : State) : Prop :=
  SameRegsBut ds s t ∧ t.flags = s.flags ∧ SameIo s t ∧ SameHidden s t ∧ SameBytesBut as s t

/-- A location in a bank that one of the two mapping records of port 0 selects (R62). -/
def State.mapped (s : State) (l : Location) : Prop := ∃ a, s.translate a = some l

/-! ## What an instruction's statement says -/

/-- The words `ws` are exactly one instruction, `i`: its encoding and its length (R91, R95). -/
def DecodesTo (ws : List Word) (i : Instr) : Prop := ∀ rest, decodeBytes (wordBytes ws ++ rest) = .ok (i, rest)

/-- The instruction completes with `r` in ACC and `f` in FLAGS, and nothing else changed (R145). -/
def PutsAcc (i : Instr) (s : State) (r : Word) (f : Flags) : Prop :=
  ∃ t, exec i s = .next t ∧ t.reg accIx = r ∧ t.flags = f ∧ OnlyRegsAndFlags [accIx] s t

/-- The instruction completes with `f` in FLAGS, and nothing else changed. -/
def PutsFlags (i : Instr) (s : State) (f : Flags) : Prop :=
  ∃ t, exec i s = .next t ∧ t.flags = f ∧ OnlyRegsAndFlags [] s t

/-- The instruction completes with `r` in register `x` and `f` in FLAGS, and nothing else changed. -/
def PutsRegFlags (i : Instr) (s : State) (x : RegIx) (r : Word) (f : Flags) : Prop :=
  ∃ t, exec i s = .next t ∧ t.reg x = r ∧ t.flags = f ∧ OnlyRegsAndFlags [x] s t

/-- The instruction completes with `v` in register `x`, and nothing else changed, FLAGS included. -/
def PutsReg (i : Instr) (s : State) (x : RegIx) (v : Word) : Prop :=
  ∃ t, exec i s = .next t ∧ t.reg x = v ∧ OnlyRegs [x] s t

/-- N and Z of a result, with the given C and V (R140 to R144, R180 to R182). -/
def flagsOf (r : Word) (c v : Bool) : Flags := { n := r.getLsbD 15, z := decide (r = 0), c := c, v := v }

/-- The flags of an addition (R140). -/
def addFlags (a b : Word) : Flags :=
  flagsOf (a + b) (decide (0xFFFF < a.toNat + b.toNat))
    (decide (a.getLsbD 15 = b.getLsbD 15 ∧ (a + b).getLsbD 15 ≠ a.getLsbD 15))

/-- The flags of a subtraction (R141). -/
def subFlags (a b : Word) : Flags :=
  flagsOf (a - b) (decide (a.toNat < b.toNat))
    (decide (a.getLsbD 15 ≠ b.getLsbD 15 ∧ (a - b).getLsbD 15 ≠ a.getLsbD 15))

/-- The instruction completes with the word `v` stored at `a`, low byte first, and nothing else changed (R202). -/
def StoresWord (i : Instr) (s : State) (a v : Word) : Prop :=
  ∃ t, exec i s = .next t ∧ WordStored s t a v ∧ OnlyRegsAndBytes [] [a, a + 1#16] s t

/-- The instruction completes with the byte `v` stored at `a`, and nothing else changed (R204). -/
def StoresByte (i : Instr) (s : State) (a : Word) (v : Byte) : Prop :=
  ∃ t, exec i s = .next t ∧ ByteStored s t a v ∧ OnlyRegsAndBytes [] [a] s t

/-- The instruction completes with `v` pushed, and nothing else changed (R220). -/
def Pushes (i : Instr) (s : State) (v : Word) : Prop :=
  ∃ t, exec i s = .next t ∧ t.reg spIx = s.reg spIx - 2#16 ∧ WordStored s t (s.reg spIx - 2#16) v ∧
    OnlyRegsAndBytes [spIx] [s.reg spIx - 2#16, s.reg spIx - 1#16] s t

/-- The column "true when" of R230: what the condition with a code in t asks of FLAGS, whatever wrote them. The formulas of
codes 7 to 12 are the spec's own general knowledge (K1, log entry 8). -/
def trueWhen (code : BitVec 4) (f : Flags) : Prop :=
  match code.toNat with
  | 0 => True
  | 1 => f.z = true
  | 2 => f.z = false
  | 3 => f.c = true
  | 4 => f.c = false
  | 5 => f.v = true
  | 6 => f.v = false
  | 7 => f.z = false ∧ f.n = f.v
  | 8 => f.n ≠ f.v
  | 9 => f.n = f.v
  | 10 => f.z = true ∨ f.n ≠ f.v
  | 11 => f.c = false ∧ f.z = false
  | 12 => f.c = true ∨ f.z = true
  | 13 => f.n = true
  | 14 => f.n = false
  | _ => False

/-- The condition codes of class 7 with their instructions (R101, R231). -/
def jumpRegForms (x : RegIx) : List (BitVec 4 × Instr) :=
  [(0, .jmpr x), (1, .jeqr x), (2, .jner x), (3, .jcsr x),
   (4, .jccr x), (5, .jvsr x), (6, .jvcr x), (7, .jgtr x),
   (8, .jltr x), (9, .jger x), (10, .jler x), (11, .jhir x),
   (12, .jlsr x), (13, .jmir x), (14, .jplr x), (15, .jnvr x)]

/-- The condition codes of class 8 with their instructions (R101, R231). -/
def jumpAddrForms (ext : Word) : List (BitVec 4 × Instr) :=
  [(0, .jmp ext), (1, .jeq ext), (2, .jne ext), (3, .jcs ext),
   (4, .jcc ext), (5, .jvs ext), (6, .jvc ext), (7, .jgt ext),
   (8, .jlt ext), (9, .jge ext), (10, .jle ext), (11, .jhi ext),
   (12, .jls ext), (13, .jmi ext), (14, .jpl ext), (15, .jnv ext)]

/-- The condition codes of class 9 with their instructions (R101, R231). -/
def callRegForms (x : RegIx) : List (BitVec 4 × Instr) :=
  [(0, .callr x), (1, .calleqr x), (2, .callner x), (3, .callcsr x),
   (4, .callccr x), (5, .callvsr x), (6, .callvcr x), (7, .callgtr x),
   (8, .callltr x), (9, .callger x), (10, .calller x), (11, .callhir x),
   (12, .calllsr x), (13, .callmir x), (14, .callplr x), (15, .callnvr x)]

/-- The condition codes of class A with their instructions (R101, R231). -/
def callAddrForms (ext : Word) : List (BitVec 4 × Instr) :=
  [(0, .call ext), (1, .calleq ext), (2, .callne ext), (3, .callcs ext),
   (4, .callcc ext), (5, .callvs ext), (6, .callvc ext), (7, .callgt ext),
   (8, .calllt ext), (9, .callge ext), (10, .callle ext), (11, .callhi ext),
   (12, .callls ext), (13, .callmi ext), (14, .callpl ext), (15, .callnv ext)]

/-- The instruction is one of the undefined encodings (R103). -/
def IsUndefined (i : Instr) : Prop :=
  (∃ l, i = .undefSystem l) ∨ (∃ t, i = .undefMove t) ∨ (∃ t, i = .undefAlu t) ∨ (∃ t, i = .undefAluImm t) ∨
    (∃ t, i = .undefUnary t) ∨ (∃ t, i = .undefLoadStore t) ∨ (∃ t, i = .undefStack t) ∨ i = .undefClassD ∨
    i = .undefClassE ∨ i = .undefClassF

/-- The six bytes from `a` on, as the machine reads them: as many as the longest instruction has (R91). -/
def State.window (s : State) (a : Word) : List Byte :=
  [s.memRead8 a, s.memRead8 (a + 1#16), s.memRead8 (a + 2#16), s.memRead8 (a + 3#16), s.memRead8 (a + 4#16),
   s.memRead8 (a + 5#16)]

/-- Nothing but I/O registers differs. -/
def OnlyIo (s t : State) : Prop :=
  SameRegsBut [] s t ∧ t.flags = s.flags ∧ SameHidden s t ∧ ∀ l, t.byteAt l = s.byteAt l

/-! ## What a cycle does, in the spec's terms -/

/-- In its next cycle a machine that is not halted executes `i` on the state `e`: after the interrupt entry if one is pending,
the bytes from PC on decode to `i`, and `e` has PC past them (R300, R96). -/
def Fetches (s : State) (i : Instr) (e : State) : Prop :=
  let s0 := if s.irqPending then s.interruptEntry else s
  ∃ rest, decodeBytes (s0.window (s0.reg pcIx)) = .ok (i, rest) ∧
    e = s0.setReg pcIx (s0.reg pcIx + BitVec.ofNat 16 (6 - rest.length))

/-- Timer `i` has a comparator event in the cycle whose execute phase leaves `s` (R341, R343). -/
abbrev TimerEvent (s : State) (i : Fin 3) : Prop :=
  let p : IoIx := ⟨4 + i.val, by omega⟩
  s.tick.toNat % ((s.ioReg p 1).toNat + 1) = 0 ∧
    if (s.ioReg p 4).getLsbD 0 then (s.ioReg p 0 - 1#16).toNat ≤ (s.ioReg p 2).toNat
    else (s.ioReg p 2).toNat ≤ (s.ioReg p 0 + 1#16).toNat

/-- The DMA engine completes a transfer with IRQEN set in the cycle whose execute phase leaves `s` (R350, R352). -/
abbrev DmaInterrupt (s : State) : Prop :=
  (s.ioReg 7 3).getLsbD 0 = true ∧ (s.ioReg 7 3).getLsbD 1 = true ∧ (s.ioReg 7 2).toNat ≤ 0x8000

/-- Line `l` is unmasked, and IRR requests it after the execute phase that leaves `s`, or a timer or the DMA engine raises it
in the same cycle (R332, R320). -/
abbrev Candidate (s : State) (l : Fin 16) : Prop :=
  (s.ioReg 8 0).getLsbD l = false ∧
    ((s.ioReg 8 2).getLsbD l = true ∨ (∃ i : Fin 3, l.val = 4 + i.val ∧ TimerEvent s i) ∨ (l = 7 ∧ DmaInterrupt s))

end Sys2Proof.Machine
end

