-- ==== Sys2Proof/Certificates/Slice0/Obligations.lean ====
section
/-! DEFINITION. The statements about the model, from the numbered rules of the spec (OBLIGATIONS.json lists them). -/

open Sys2Proof Sys2Proof.Machine

/-- Decoding the encoding of any well-formed instruction gives it back (R90, R91, R95, R106). -/
def Obligations.DecodeOfEncodeIsTheInstruction : Prop :=
  ∀ i : Instr, i.wf = true → DecodesTo i.encode i

/-- Decoding never fails, and the length is a function of (class, t) alone (R95, R96, R97). -/
def Obligations.EveryByteListDecodes : Prop :=
  ∀ (b0 b1 b2 b3 b4 b5 : Byte) (rest : List Byte),
    let bytes := b0 :: b1 :: b2 :: b3 :: b4 :: b5 :: rest
    let c := b1.toNat / 16
    let t := b1.toNat % 16
    let len :=
      if (c = 1 ∧ t = 1) ∨ (c = 3 ∧ t ≤ 9) ∨ (c = 5 ∧ 4 ≤ t ∧ t ≤ 7) ∨ c = 8 ∨ c = 10 then 4
      else if c = 5 ∧ t = 8 then 6
      else 2
    ∃ i, i.wf = true ∧ decodeBytes bytes = .ok (i, bytes.drop len)

/-- The undefined encodings are exactly those of R103, one word long, and do nothing (R103, R99, R124, R253). -/
def Obligations.UndefinedEncodingsAreOneWordNoOps : Prop :=
  ∀ (w imm ext : Word) (s : State),
    let c := w.toNat / 4096
    let t := w.toNat / 256 % 16
    let undef := (c = 0 ∧ 4 ≤ w.toNat) ∨ (c = 1 ∧ 2 ≤ t) ∨ ((c = 2 ∨ c = 3 ∨ c = 4) ∧ 10 ≤ t) ∨ (c = 5 ∧ 9 ≤ t) ∨
      (c = 6 ∧ 4 ≤ t) ∨ 13 ≤ c
    (IsUndefined (decodeWords w imm ext) ↔ undef) ∧
      (undef → DecodesTo [w] (decodeWords w imm ext) ∧ exec (decodeWords w imm ext) s = .next s)

/-- Words written out in the spec decode to the instructions they stand for (R106). -/
def Obligations.SampleWordsDecodeAsTheSpecSays : Prop :=
  decodeBytes [0x00, 0x11, 0x05, 0x00] = .ok (.movi 0 5, []) ∧
    decodeBytes [0x12, 0x10] = .ok (.mov 1 2, []) ∧
    decodeBytes [0x00, 0x58, 0x34, 0x12, 0x08, 0x80] = .ok (.stia 0x1234 0x8008, []) ∧
    decodeBytes [0x00, 0x82, 0x04, 0x00] = .ok (.jne 0x0004, []) ∧
    decodeBytes [0x40, 0x90] = .ok (.callr 4, []) ∧
    decodeBytes [0x11, 0xB8] = .ok (.ioIn 1 8 1, []) ∧
    decodeBytes [0x03, 0x00] = .ok (.reti, [])

/-- A step runs the instruction its bytes decode to, then timers 0, 1, 2, the DMA engine and the PIC, then the tick
(R96, R300, R301). -/
def Obligations.StepRunsTheDecodedInstruction : Prop :=
  ∀ (s : State) (i : Instr) (e : State), s.halted = false → Fetches s i e →
    step s =
      match exec i e with
      | .next t => .next { ((((t.timerStep 0).timerStep 1).timerStep 2).dmaStep).picStep with tick := t.tick + 1#32 }
      | .fault f => .fault f
      | .refused r => .refused r

/-- NOP and every undefined encoding complete and change nothing (R120, R124, R253). -/
def Obligations.NopAndUndefinedChangeNothing : Prop :=
  ∀ s : State, DecodesTo [0x0000] .nop ∧ exec .nop s = .next s ∧
    (∀ l, exec (.undefSystem l) s = .next s) ∧ (∀ t, exec (.undefMove t) s = .next s) ∧
    (∀ t, exec (.undefAlu t) s = .next s) ∧ (∀ t, exec (.undefAluImm t) s = .next s) ∧
    (∀ t, exec (.undefUnary t) s = .next s) ∧ (∀ t, exec (.undefLoadStore t) s = .next s) ∧
    (∀ t, exec (.undefStack t) s = .next s) ∧ exec .undefClassD s = .next s ∧ exec .undefClassE s = .next s ∧
    exec .undefClassF s = .next s

/-- HALT moves PC back to its own word, sets halted, and changes nothing else (R121, R39). -/
def Obligations.HaltRewindsPcAndHalts : Prop :=
  ∀ s : State, DecodesTo [0x0001] .halt ∧
    ∃ t, exec .halt s = .next t ∧ t.reg pcIx = s.reg pcIx - 2#16 ∧ t.halted = true ∧ SameRegsBut [pcIx] s t ∧
      t.flags = s.flags ∧ SameIo s t ∧ t.irqPending = s.irqPending ∧ t.irqVector = s.irqVector ∧ t.tick = s.tick ∧
      t.banks = s.banks ∧ SameBytes s t

/-- RET loads PC from the cell at SP and moves SP past it (R122). -/
def Obligations.RetPopsThePc : Prop :=
  ∀ s : State, DecodesTo [0x0002] .ret ∧
    (∃ t, exec .ret s = .next t ∧ t.reg pcIx = s.memRead8 (s.reg spIx + 1#16) ++ s.memRead8 (s.reg spIx) ∧
      t.reg spIx = s.reg spIx + 2#16 ∧ OnlyRegs [pcIx, spIx] s t ∧
      (s.translate (s.reg spIx) = none → s.translate (s.reg spIx + 1#16) = none → t.reg pcIx = 0) ∧
      (s.reg spIx = 0xFFFF → t.reg pcIx = s.memRead8 0 ++ s.memRead8 0xFFFF ∧ t.reg spIx = 1)) ∧
    exec .ret s = exec (.pop pcIx) s

/-- RETI loads FLAGS and then PC from the stack (R123). -/
def Obligations.RetiPopsFlagsThenPc : Prop :=
  ∀ s : State, DecodesTo [0x0003] .reti ∧
    ∃ t, exec .reti s = .next t ∧ t.reg pcIx = s.memRead16 (s.reg spIx + 2#16) ∧ t.reg spIx = s.reg spIx + 4#16 ∧
      t.flags.n = (s.memRead16 (s.reg spIx)).getLsbD 3 ∧ t.flags.z = (s.memRead16 (s.reg spIx)).getLsbD 2 ∧
      t.flags.c = (s.memRead16 (s.reg spIx)).getLsbD 1 ∧ t.flags.v = (s.memRead16 (s.reg spIx)).getLsbD 0 ∧
      OnlyRegsAndFlags [pcIx, spIx] s t

/-- MOV and MOVI write their destination and nothing else (R130, R131). -/
def Obligations.MovesCopyAndKeepFlags : Prop :=
  ∀ (s : State) (x : RegIx),
    (∀ y, DecodesTo [instrWord 1 0 (fieldBits x) (fieldBits y)] (.mov x y) ∧ PutsReg (.mov x y) s x (s.reg y)) ∧
    ∀ imm u, DecodesTo [instrWord 1 1 (fieldBits x) u, imm] (.movi x imm) ∧ PutsReg (.movi x imm) s x imm

/-- ADD and ADDI write the 16-bit sum to ACC and N, Z, C, V (R140, R150, R160). -/
def Obligations.AddWritesAccAndFlags : Prop :=
  ∀ (s : State) (x : RegIx),
    (∀ y, DecodesTo [instrWord 2 0 (fieldBits x) (fieldBits y)] (.add x y) ∧
      PutsAcc (.add x y) s (s.reg x + (s.reg y)) (addFlags (s.reg x) (s.reg y))) ∧
    (∀ imm u, DecodesTo [instrWord 3 0 (fieldBits x) u, imm] (.addi x imm) ∧
      PutsAcc (.addi x imm) s (s.reg x + imm) (addFlags (s.reg x) imm))

/-- SUB and SUBI write the difference to ACC; CMP and CMPI write only the flags (R141, R151, R158, R161, R168). -/
def Obligations.SubAndCmpWriteBorrowFlags : Prop :=
  ∀ (s : State) (x : RegIx),
    (∀ y, DecodesTo [instrWord 2 1 (fieldBits x) (fieldBits y)] (.sub x y) ∧
      PutsAcc (.sub x y) s (s.reg x - (s.reg y)) (subFlags (s.reg x) (s.reg y))) ∧
    (∀ imm u, DecodesTo [instrWord 3 1 (fieldBits x) u, imm] (.subi x imm) ∧
      PutsAcc (.subi x imm) s (s.reg x - imm) (subFlags (s.reg x) imm)) ∧
    (∀ y, DecodesTo [instrWord 2 8 (fieldBits x) (fieldBits y)] (.cmp x y) ∧
      PutsFlags (.cmp x y) s (subFlags (s.reg x) (s.reg y))) ∧
    (∀ imm u, DecodesTo [instrWord 3 8 (fieldBits x) u, imm] (.cmpi x imm) ∧
      PutsFlags (.cmpi x imm) s (subFlags (s.reg x) imm))

/-- MUL and MULI write the low half of the product to ACC (R143, R152, R162). -/
def Obligations.MulWritesTheLowHalf : Prop :=
  ∀ (s : State) (x : RegIx),
    (∀ y, DecodesTo [instrWord 2 2 (fieldBits x) (fieldBits y)] (.mul x y) ∧
      PutsAcc (.mul x y) s (s.reg x * (s.reg y)) (flagsOf (s.reg x * (s.reg y)) (decide (0xFFFF < (s.reg x).toNat * ((s.reg y)).toNat)) false)) ∧
    (∀ imm u, DecodesTo [instrWord 3 2 (fieldBits x) u, imm] (.muli x imm) ∧
      PutsAcc (.muli x imm) s (s.reg x * imm) (flagsOf (s.reg x * imm) (decide (0xFFFF < (s.reg x).toNat * (imm).toNat)) false))

/-- DIV, DIVI, MOD, MODI: unsigned quotient and remainder, a no-op for a zero divisor (R144, R153, R154, R163, R164).
-/
def Obligations.DivAndModAreUnsigned : Prop :=
  ∀ (s : State) (x : RegIx),
    (∀ y, DecodesTo [instrWord 2 3 (fieldBits x) (fieldBits y)] (.div x y) ∧
      (((s.reg y) : Word) ≠ 0 → PutsAcc (.div x y) s (s.reg x / (s.reg y)) (flagsOf (s.reg x / (s.reg y)) false false)) ∧
      (((s.reg y) : Word) = 0 → exec (.div x y) s = .next s)) ∧
    (∀ imm u, DecodesTo [instrWord 3 3 (fieldBits x) u, imm] (.divi x imm) ∧
      ((imm : Word) ≠ 0 → PutsAcc (.divi x imm) s (s.reg x / imm) (flagsOf (s.reg x / imm) false false)) ∧
      ((imm : Word) = 0 → exec (.divi x imm) s = .next s)) ∧
    (∀ y, DecodesTo [instrWord 2 4 (fieldBits x) (fieldBits y)] (.mod x y) ∧
      (((s.reg y) : Word) ≠ 0 → PutsAcc (.mod x y) s (s.reg x % (s.reg y)) (flagsOf (s.reg x % (s.reg y)) false false)) ∧
      (((s.reg y) : Word) = 0 → exec (.mod x y) s = .next s)) ∧
    (∀ imm u, DecodesTo [instrWord 3 4 (fieldBits x) u, imm] (.modi x imm) ∧
      ((imm : Word) ≠ 0 → PutsAcc (.modi x imm) s (s.reg x % imm) (flagsOf (s.reg x % imm) false false)) ∧
      ((imm : Word) = 0 → exec (.modi x imm) s = .next s))

/-- AND, OR, XOR and their immediate forms write ACC; TST and TSTI write only the flags (R142, R155, R156, R157, R159,
R165, R166, R167, R169). -/
def Obligations.LogicWritesAccAndClearsCarry : Prop :=
  ∀ (s : State) (x : RegIx),
    (∀ y, DecodesTo [instrWord 2 5 (fieldBits x) (fieldBits y)] (.and x y) ∧
      PutsAcc (.and x y) s (s.reg x &&& (s.reg y)) (flagsOf (s.reg x &&& (s.reg y)) false false)) ∧
    (∀ imm u, DecodesTo [instrWord 3 5 (fieldBits x) u, imm] (.andi x imm) ∧
      PutsAcc (.andi x imm) s (s.reg x &&& imm) (flagsOf (s.reg x &&& imm) false false)) ∧
    (∀ y, DecodesTo [instrWord 2 6 (fieldBits x) (fieldBits y)] (.or x y) ∧
      PutsAcc (.or x y) s (s.reg x ||| (s.reg y)) (flagsOf (s.reg x ||| (s.reg y)) false false)) ∧
    (∀ imm u, DecodesTo [instrWord 3 6 (fieldBits x) u, imm] (.ori x imm) ∧
      PutsAcc (.ori x imm) s (s.reg x ||| imm) (flagsOf (s.reg x ||| imm) false false)) ∧
    (∀ y, DecodesTo [instrWord 2 7 (fieldBits x) (fieldBits y)] (.xor x y) ∧
      PutsAcc (.xor x y) s (s.reg x ^^^ (s.reg y)) (flagsOf (s.reg x ^^^ (s.reg y)) false false)) ∧
    (∀ imm u, DecodesTo [instrWord 3 7 (fieldBits x) u, imm] (.xori x imm) ∧
      PutsAcc (.xori x imm) s (s.reg x ^^^ imm) (flagsOf (s.reg x ^^^ imm) false false)) ∧
    (∀ y, DecodesTo [instrWord 2 9 (fieldBits x) (fieldBits y)] (.tst x y) ∧
      PutsFlags (.tst x y) s (flagsOf (s.reg x &&& (s.reg y)) false false)) ∧
    (∀ imm u, DecodesTo [instrWord 3 9 (fieldBits x) u, imm] (.tsti x imm) ∧
      PutsFlags (.tsti x imm) s (flagsOf (s.reg x &&& imm) false false))

/-- INC, DEC, NOT, NEG write the named register and the flags (R183, R184, R185, R186). -/
def Obligations.IncDecNotNegWriteTheirRegister : Prop :=
  ∀ (s : State) (x : RegIx) (u : BitVec 4),
    (DecodesTo [instrWord 4 0 (fieldBits x) u] (.inc x) ∧
      PutsRegFlags (.inc x) s x (s.reg x + 1#16) (addFlags (s.reg x) 1#16)) ∧
    (DecodesTo [instrWord 4 1 (fieldBits x) u] (.dec x) ∧
      PutsRegFlags (.dec x) s x (s.reg x - 1#16) (subFlags (s.reg x) 1#16)) ∧
    (DecodesTo [instrWord 4 2 (fieldBits x) u] (.not x) ∧
      PutsRegFlags (.not x) s x (~~~(s.reg x)) (flagsOf (~~~(s.reg x)) false false)) ∧
    DecodesTo [instrWord 4 3 (fieldBits x) u] (.neg x) ∧
      PutsRegFlags (.neg x) s x (-(s.reg x))
        (flagsOf (-(s.reg x)) (decide (s.reg x ≠ 0)) (decide (s.reg x = 0x8000)))

/-- SHL and SHLI shift left by the whole amount; C is the last bit shifted out (R180, R187, R190). -/
def Obligations.ShiftLeftMultiplies : Prop :=
  ∀ (s : State) (x : RegIx),
    (∀ y, DecodesTo [instrWord 4 4 (fieldBits x) (fieldBits y)] (.shl x y) ∧
      PutsRegFlags (.shl x y) s x (BitVec.ofNat 16 ((s.reg x).toNat * 2 ^ ((s.reg y).toNat))) (flagsOf (BitVec.ofNat 16 ((s.reg x).toNat * 2 ^ ((s.reg y).toNat))) (decide (1 ≤ (s.reg y).toNat ∧ (s.reg y).toNat ≤ 16) && (s.reg x).getLsbD (16 - (s.reg y).toNat)) false)) ∧
    ∀ n : BitVec 4, DecodesTo [instrWord 4 7 (fieldBits x) n] (.shli x n) ∧
      PutsRegFlags (.shli x n) s x (BitVec.ofNat 16 ((s.reg x).toNat * 2 ^ (n.toNat))) (flagsOf (BitVec.ofNat 16 ((s.reg x).toNat * 2 ^ (n.toNat))) (decide (1 ≤ n.toNat ∧ n.toNat ≤ 16) && (s.reg x).getLsbD (16 - n.toNat)) false)

/-- SHR and SHRI shift right logically by the whole amount (R181, R188, R191). -/
def Obligations.LogicalShiftRightDivides : Prop :=
  ∀ (s : State) (x : RegIx),
    (∀ y, DecodesTo [instrWord 4 5 (fieldBits x) (fieldBits y)] (.shr x y) ∧
      PutsRegFlags (.shr x y) s x (BitVec.ofNat 16 ((s.reg x).toNat / 2 ^ ((s.reg y).toNat))) (flagsOf (BitVec.ofNat 16 ((s.reg x).toNat / 2 ^ ((s.reg y).toNat))) (decide (1 ≤ (s.reg y).toNat ∧ (s.reg y).toNat ≤ 16) && (s.reg x).getLsbD ((s.reg y).toNat - 1)) false)) ∧
    ∀ n : BitVec 4, DecodesTo [instrWord 4 8 (fieldBits x) n] (.shri x n) ∧
      PutsRegFlags (.shri x n) s x (BitVec.ofNat 16 ((s.reg x).toNat / 2 ^ (n.toNat))) (flagsOf (BitVec.ofNat 16 ((s.reg x).toNat / 2 ^ (n.toNat))) (decide (1 ≤ n.toNat ∧ n.toNat ≤ 16) && (s.reg x).getLsbD (n.toNat - 1)) false)

/-- SAR and SARI give the floor of the two's-complement value (a reading the spec presumes, log entry 8) divided by
2^n (R182, R189, R192, R18). -/
def Obligations.ArithmeticShiftRightFloors : Prop :=
  ∀ (s : State) (x : RegIx),
    (∀ y, DecodesTo [instrWord 4 6 (fieldBits x) (fieldBits y)] (.sar x y) ∧
      PutsRegFlags (.sar x y) s x (BitVec.ofInt 16 ((s.reg x).toInt / 2 ^ ((s.reg y).toNat))) (flagsOf (BitVec.ofInt 16 ((s.reg x).toInt / 2 ^ ((s.reg y).toNat))) (decide (1 ≤ (s.reg y).toNat) && (s.reg x).getLsbD (min ((s.reg y).toNat - 1) 15)) false)) ∧
    ∀ n : BitVec 4, DecodesTo [instrWord 4 9 (fieldBits x) n] (.sari x n) ∧
      PutsRegFlags (.sari x n) s x (BitVec.ofInt 16 ((s.reg x).toInt / 2 ^ (n.toNat))) (flagsOf (BitVec.ofInt 16 ((s.reg x).toInt / 2 ^ (n.toNat))) (decide (1 ≤ n.toNat) && (s.reg x).getLsbD (min (n.toNat - 1) 15)) false)

/-- LD, LDA, LDB, LDBA load from [Ry] or an absolute address (R201, R203, R205, R207). -/
def Obligations.LoadsWriteTheirRegister : Prop :=
  ∀ (s : State) (x : RegIx),
    (∀ y, DecodesTo [instrWord 5 0 (fieldBits x) (fieldBits y)] (.ld x y) ∧
      PutsReg (.ld x y) s x (s.memRead8 (s.reg y + 1#16) ++ s.memRead8 (s.reg y))) ∧
    (∀ y, DecodesTo [instrWord 5 2 (fieldBits x) (fieldBits y)] (.ldb x y) ∧
      PutsReg (.ldb x y) s x (0#8 ++ s.memRead8 (s.reg y))) ∧
    (∀ ext u, DecodesTo [instrWord 5 4 (fieldBits x) u, ext] (.lda x ext) ∧
      PutsReg (.lda x ext) s x (s.memRead8 (ext + 1#16) ++ s.memRead8 ext)) ∧
    ∀ ext u, DecodesTo [instrWord 5 6 (fieldBits x) u, ext] (.ldba x ext) ∧
      PutsReg (.ldba x ext) s x (0#8 ++ s.memRead8 ext)

/-- ST, STA, STIA store 16 bits little-endian, each byte only where it can be written (R202, R206, R209). -/
def Obligations.WordStoresWriteTwoBytes : Prop :=
  ∀ (s : State) (x : RegIx),
    (∀ y, DecodesTo [instrWord 5 1 (fieldBits x) (fieldBits y)] (.st x y) ∧ StoresWord (.st x y) s (s.reg y) (s.reg x)) ∧
    (∀ ext u, DecodesTo [instrWord 5 5 (fieldBits x) u, ext] (.sta x ext) ∧ StoresWord (.sta x ext) s ext (s.reg x)) ∧
    ∀ imm ext u v, DecodesTo [instrWord 5 8 u v, imm, ext] (.stia imm ext) ∧ StoresWord (.stia imm ext) s ext imm

/-- STB and STBA store the low byte only (R204, R208). -/
def Obligations.ByteStoresWriteOneByte : Prop :=
  ∀ (s : State) (x : RegIx),
    (∀ y, DecodesTo [instrWord 5 3 (fieldBits x) (fieldBits y)] (.stb x y) ∧
      StoresByte (.stb x y) s (s.reg y) ((s.reg x).extractLsb' 0 8)) ∧
    ∀ ext u, DecodesTo [instrWord 5 7 (fieldBits x) u, ext] (.stba x ext) ∧
      StoresByte (.stba x ext) s ext ((s.reg x).extractLsb' 0 8)

/-- PUSH and PUSHF decrement SP by 2 and store there (R221, R223). -/
def Obligations.PushesStoreBelowSp : Prop :=
  ∀ s : State,
    (∀ x u, DecodesTo [instrWord 6 0 (fieldBits x) u] (.push x) ∧ Pushes (.push x) s (s.reg x)) ∧
    ∀ u v, DecodesTo [instrWord 6 2 u v] .pushf ∧
      Pushes .pushf s (0#12 ++ BitVec.ofBool s.flags.n ++ BitVec.ofBool s.flags.z ++ BitVec.ofBool s.flags.c ++
        BitVec.ofBool s.flags.v)

/-- POP and POPF load the cell at SP and move SP past it (R220, R222, R224). -/
def Obligations.PopsLoadFromSp : Prop :=
  ∀ s : State,
    (∀ x u, DecodesTo [instrWord 6 1 (fieldBits x) u] (.pop x) ∧
      ∃ t, exec (.pop x) s = .next t ∧ t.reg x = s.memRead16 (s.reg spIx) ∧
        (x ≠ spIx → t.reg spIx = s.reg spIx + 2#16) ∧ OnlyRegs [x, spIx] s t) ∧
    ∀ u v, DecodesTo [instrWord 6 3 u v] .popf ∧
      ∃ t, exec .popf s = .next t ∧ t.reg spIx = s.reg spIx + 2#16 ∧
        t.flags.n = (s.memRead16 (s.reg spIx)).getLsbD 3 ∧ t.flags.z = (s.memRead16 (s.reg spIx)).getLsbD 2 ∧
        t.flags.c = (s.memRead16 (s.reg spIx)).getLsbD 1 ∧ t.flags.v = (s.memRead16 (s.reg spIx)).getLsbD 0 ∧
        OnlyRegsAndFlags [spIx] s t

/-- PUSH then POP of the same register restores every register when the cell is writable (R222, R220). -/
def Obligations.PushThenPopRoundTrips : Prop :=
  ∀ (s : State) (x : RegIx), s.canWrite (s.reg spIx - 2#16) = true → s.canWrite (s.reg spIx - 1#16) = true →
    ∃ t u, exec (.push x) s = .next t ∧ exec (.pop x) t = .next u ∧ (∀ r, u.reg r = s.reg r) ∧ u.flags = s.flags

/-- J<cc>R loads PC from a register exactly when its condition holds (formulas of GT to LS presumed by the spec, log
entry 8) (R232, R230, R231, R101). -/
def Obligations.RegisterJumpsSetPcIfTheConditionHolds : Prop :=
  ∀ (s : State) (x : RegIx), ∀ f ∈ jumpRegForms x,
    (∀ v, DecodesTo [instrWord 7 f.1 (fieldBits x) v] f.2) ∧
    ∃ t, exec f.2 s = .next t ∧ (trueWhen f.1 s.flags → t.reg pcIx = s.reg x) ∧
      (¬ trueWhen f.1 s.flags → t.reg pcIx = s.reg pcIx) ∧ OnlyRegs [pcIx] s t

/-- J<cc> loads PC from its extension word exactly when its condition holds (formulas of GT to LS presumed by the
spec, log entry 8) (R233, R230, R93). -/
def Obligations.AddressJumpsSetPcIfTheConditionHolds : Prop :=
  ∀ (s : State) (ext : Word), ∀ f ∈ jumpAddrForms ext,
    (∀ u v, DecodesTo [instrWord 8 f.1 u v, ext] f.2) ∧
    ∃ t, exec f.2 s = .next t ∧ (trueWhen f.1 s.flags → t.reg pcIx = ext) ∧
      (¬ trueWhen f.1 s.flags → t.reg pcIx = s.reg pcIx) ∧ OnlyRegs [pcIx] s t

/-- CALL<cc>R pushes the next address and jumps when its condition holds (formulas of GT to LS presumed by the spec,
log entry 8) (R234, R230, R220). -/
def Obligations.RegisterCallsPushTheReturnAddress : Prop :=
  ∀ (s : State) (x : RegIx), ∀ f ∈ callRegForms x,
    (∀ v, DecodesTo [instrWord 9 f.1 (fieldBits x) v] f.2) ∧
    (¬ trueWhen f.1 s.flags → exec f.2 s = .next s) ∧
    (trueWhen f.1 s.flags → ∃ t, exec f.2 s = .next t ∧ t.reg pcIx = s.reg x ∧
      t.reg spIx = s.reg spIx - 2#16 ∧ WordStored s t (s.reg spIx - 2#16) (s.reg pcIx) ∧
      OnlyRegsAndBytes [pcIx, spIx] [s.reg spIx - 2#16, s.reg spIx - 1#16] s t)

/-- CALL<cc> pushes the address after the extension word and jumps when its condition holds (formulas of GT to LS
presumed by the spec, log entry 8) (R235, R230, R220). -/
def Obligations.AddressCallsPushTheReturnAddress : Prop :=
  ∀ (s : State) (ext : Word), ∀ f ∈ callAddrForms ext,
    (∀ u v, DecodesTo [instrWord 10 f.1 u v, ext] f.2) ∧
    (¬ trueWhen f.1 s.flags → exec f.2 s = .next s) ∧
    (trueWhen f.1 s.flags → ∃ t, exec f.2 s = .next t ∧ t.reg pcIx = ext ∧
      t.reg spIx = s.reg spIx - 2#16 ∧ WordStored s t (s.reg spIx - 2#16) (s.reg pcIx) ∧
      OnlyRegsAndBytes [pcIx, spIx] [s.reg spIx - 2#16, s.reg spIx - 1#16] s t)

/-- After CMP the conditions compare the operands, signed and unsigned (GT to LS by formulas the spec presumes, log
entry 8) (R230, R158, R18). -/
def Obligations.ConditionsAfterCompare : Prop :=
  ∀ (s : State) (x y : RegIx), ∃ t, exec (.cmp x y) s = .next t ∧
    let a := s.reg x
    let b := s.reg y
    (condHolds .al t.flags = true) ∧ (condHolds .nv t.flags = false) ∧
    (condHolds .eq t.flags = true ↔ a = b) ∧ (condHolds .ne t.flags = true ↔ a ≠ b) ∧
    (condHolds .cs t.flags = true ↔ a.toNat < b.toNat) ∧ (condHolds .cc t.flags = true ↔ b.toNat ≤ a.toNat) ∧
    (condHolds .vs t.flags = true ↔ a.toInt - b.toInt < -32768 ∨ 32767 < a.toInt - b.toInt) ∧
    (condHolds .vc t.flags = true ↔ -32768 ≤ a.toInt - b.toInt ∧ a.toInt - b.toInt ≤ 32767) ∧
    (condHolds .gt t.flags = true ↔ b.toInt < a.toInt) ∧ (condHolds .lt t.flags = true ↔ a.toInt < b.toInt) ∧
    (condHolds .ge t.flags = true ↔ b.toInt ≤ a.toInt) ∧ (condHolds .le t.flags = true ↔ a.toInt ≤ b.toInt) ∧
    (condHolds .hi t.flags = true ↔ b.toNat < a.toNat) ∧ (condHolds .ls t.flags = true ↔ a.toNat ≤ b.toNat) ∧
    (condHolds .mi t.flags = true ↔ (a - b).getLsbD 15 = true) ∧
    (condHolds .pl t.flags = true ↔ (a - b).getLsbD 15 = false)

/-- IN reads one I/O register into Rx; OUT writes one from Rx (R250, R251). -/
def Obligations.InReadsAndOutWritesOneIoRegister : Prop :=
  ∀ (s : State) (x : RegIx) (p r : IoIx),
    (DecodesTo [instrWord 11 (fieldBits p) (fieldBits x) (fieldBits r)] (.ioIn x p r) ∧ PutsReg (.ioIn x p r) s x (s.ioReg p r)) ∧
    DecodesTo [instrWord 12 (fieldBits p) (fieldBits x) (fieldBits r)] (.ioOut x p r) ∧
      ∃ t, exec (.ioOut x p r) s = .next t ∧ t.ioReg p r = s.reg x ∧
        (∀ p' r', ¬(p' = p ∧ r' = r) → t.ioReg p' r' = s.ioReg p' r') ∧ OnlyIo s t ∧
        (p ≠ 0 → ∀ a, t.memRead8 a = s.memRead8 a)

/-- Translate reads the mapping record of the address's half from port 0 (R62). -/
def Obligations.TranslationFollowsTheMappingRecord : Prop :=
  ∀ (s : State) (a : Word),
    let kind := s.ioReg 0 (if a.getLsbD 15 then 2 else 0)
    let bank := (s.ioReg 0 (if a.getLsbD 15 then 3 else 1)).toNat
    s.translate a =
      if kind = 0 ∧ bank < s.banks.rom then some ⟨.rom, bank, a.extractLsb' 0 15⟩
      else if kind = 1 ∧ bank < s.banks.disk then some ⟨.disk, bank, a.extractLsb' 0 15⟩
      else if kind = 2 ∧ bank < s.banks.ram then some ⟨.ram, bank, a.extractLsb' 0 15⟩
      else none

/-- Byte reads and writes: ROM and unmapped writes are discarded, unmapped reads give 0x00 (R63). -/
def Obligations.ByteAccessesThroughTheMmu : Prop :=
  ∀ (s : State) (a : Word) (v : Byte),
    (s.translate a = none → s.memRead8 a = 0 ∧ s.memWrite8 a v = s) ∧
    ∀ l, s.translate a = some l →
      s.memRead8 a = s.byteAt l ∧ (l.kind = .rom → s.memWrite8 a v = s) ∧
      (l.kind ≠ .rom → (s.memWrite8 a v).byteAt l = v ∧ (∀ l', l' ≠ l → (s.memWrite8 a v).byteAt l' = s.byteAt l') ∧
        SameRegsBut [] s (s.memWrite8 a v) ∧ (s.memWrite8 a v).flags = s.flags ∧ SameIo s (s.memWrite8 a v) ∧
        SameHidden s (s.memWrite8 a v))

/-- 16-bit accesses are little-endian pairs of byte accesses (R66, R64). -/
def Obligations.WordAccessesAreLittleEndianPairs : Prop :=
  ∀ (s : State) (a v : Word),
    s.memRead16 a = s.memRead8 (a + 1#16) ++ s.memRead8 a ∧
    (s.canWrite a = true → s.canWrite (a + 1#16) = true →
      (s.memWrite16 a v).memRead8 a = v.extractLsb' 0 8 ∧ (s.memWrite16 a v).memRead8 (a + 1#16) = v.extractLsb' 8 8 ∧
      (s.memWrite16 a v).memRead16 a = v)

/-- No step changes a byte of ROM or the bank counts (R63, R50, R353). -/
def Obligations.RomIsNeverWritten : Prop :=
  ∀ s t : State, step s = .next t → t.rom = s.rom ∧ t.banks = s.banks

/-- A step changes only bytes of banks mapped before or after it (R62, R63, R50). -/
def Obligations.UnmappedBanksKeepTheirBytes : Prop :=
  ∀ (s t : State) (l : Location), step s = .next t → ¬ s.mapped l → ¬ t.mapped l → t.byteAt l = s.byteAt l

/-- Every step keeps the state's invariant (R50, R11). -/
def Obligations.StepKeepsTheInvariant : Prop :=
  ∀ s t : State, s.wf → step s = .next t → t.wf

/-- The state after reset meets the invariant (R400, R11). -/
def Obligations.ResetMeetsTheInvariant : Prop :=
  State.reset.wf ∧ ∀ (b : BankCounts) (rom disk : Memory), b.wf → rom.wf → rom.within b.rom → disk.wf →
    disk.within b.disk → (State.powerOn b rom disk).wf

/-- No step faults or refuses (R310, R302). -/
def Obligations.EveryStepCompletes : Prop :=
  (∀ (i : Instr) (s : State), Completes (exec i s)) ∧ ∀ s : State, Completes (step s)

/-- A halted machine never changes, only HALT halts one, and every performed cycle advances the tick (R39, R42, R300,
R303, R333). -/
def Obligations.OnlyHaltHaltsAndEveryOtherCycleTicks : Prop :=
  (∀ s : State, s.halted = true → step s = .next s) ∧
    ∀ s t : State, s.halted = false → step s = .next t →
      (t.halted = true ↔ s.beginCycle.fetchDecode.1 = .halt) ∧ t.tick = s.tick + 1#32

/-- Only classes 2, 3 and 4, POPF and RETI write FLAGS (R37). -/
def Obligations.FlagPreservingInstructionsKeepFlags : Prop :=
  (∀ (i : Instr) (s t : State), classOf (i.encode.headD 0) ∉ ([2, 3, 4] : List (BitVec 4)) → i ≠ .popf → i ≠ .reti →
      exec i s = .next t → t.flags = s.flags) ∧
    ∀ s : State, s.interruptEntry.flags = s.flags

/-- No instruction but OUT writes an I/O register, and no step but an OUT's writes ports 0 to 3 and 9 to 15 (R60, R44,
R360). -/
def Obligations.OnlyOutWritesIoRegisters : Prop :=
  (∀ (i : Instr) (s t : State), (∀ x p r, i ≠ .ioOut x p r) → exec i s = .next t → SameIo s t) ∧
    (∀ s : State, SameIo s s.interruptEntry) ∧
    ∀ s t : State, (∀ x p r, s.beginCycle.fetchDecode.1 ≠ .ioOut x p r) → step s = .next t →
      ∀ p r : IoIx, p.val < 4 ∨ 9 ≤ p.val → t.ioReg p r = s.ioReg p r

/-- After every performed cycle EOI is 0 and the DMA enable bit is clear (R323, R350, R425). -/
def Obligations.EoiAndDmaEnableAreClearAfterEveryCycle : Prop :=
  ∀ s t : State, s.halted = false → step s = .next t → t.ioReg 8 3 = 0 ∧ (t.ioReg 7 3).getLsbD 0 = false

/-- Interrupt entry pushes PC and the flags image and jumps to irq_vector (R330). -/
def Obligations.InterruptEntrySavesPcAndFlags : Prop :=
  ∀ s : State,
    (let t := s.interruptEntry
     t.reg spIx = s.reg spIx - 4#16 ∧ t.reg pcIx = s.irqVector ∧ t.irqPending = false ∧
      WordStored s t (s.reg spIx - 2#16) (s.reg pcIx) ∧
      WordStored s t (s.reg spIx - 4#16) (0#12 ++ BitVec.ofBool s.flags.n ++ BitVec.ofBool s.flags.z ++
        BitVec.ofBool s.flags.c ++ BitVec.ofBool s.flags.v) ∧
      SameRegsBut [pcIx, spIx] s t ∧ t.flags = s.flags ∧ SameIo s t ∧ t.irqVector = s.irqVector ∧
      t.halted = s.halted ∧ t.tick = s.tick ∧ t.banks = s.banks ∧
      SameBytesBut [s.reg spIx - 1#16, s.reg spIx - 2#16, s.reg spIx - 3#16, s.reg spIx - 4#16] s t) ∧
    (s.halted = false → s.irqPending = true → step s = step s.interruptEntry)

/-- RETI after interrupt entry restores PC, SP and FLAGS (R123, R334). -/
def Obligations.RetiUndoesInterruptEntry : Prop :=
  ∀ s : State, s.canWrite (s.reg spIx - 1#16) = true → s.canWrite (s.reg spIx - 2#16) = true →
    s.canWrite (s.reg spIx - 3#16) = true → s.canWrite (s.reg spIx - 4#16) = true →
    ∃ t, exec .reti s.interruptEntry = .next t ∧ (∀ r, t.reg r = s.reg r) ∧ t.flags = s.flags ∧ SameIo s t

/-- Raise sets the line's request bit unless the line is masked (R321). -/
def Obligations.MaskedRaisesAreLost : Prop :=
  ∀ (s : State) (l : Fin 16),
    ((s.ioReg 8 0).getLsbD l = true → s.raiseLine l = s) ∧
    ((s.ioReg 8 0).getLsbD l = false →
      (∀ k : Fin 16, ((s.raiseLine l).ioReg 8 2).getLsbD k = (decide (k = l) || (s.ioReg 8 2).getLsbD k)) ∧
      (∀ p r, ¬(p = 8 ∧ r = 2) → (s.raiseLine l).ioReg p r = s.ioReg p r) ∧ OnlyIo s (s.raiseLine l) ∧
      ((s.ioReg 8 2).getLsbD l = true → s.raiseLine l = s))

/-- The PIC step applies EOI, then selects the lowest unmasked request only if no line is in service (R323, R324,
R325). -/
def Obligations.PicSelectsTheLowestLineWhenNoneIsInService : Prop :=
  ∀ s : State,
    let t := s.picStep
    let isr := s.ioReg 8 1 &&& ~~~(s.ioReg 8 3)
    let cand := s.ioReg 8 2 &&& ~~~(s.ioReg 8 0)
    t.ioReg 8 3 = 0 ∧
    (isr ≠ 0 ∨ cand = 0 → t.ioReg 8 1 = isr ∧ t.ioReg 8 2 = s.ioReg 8 2 ∧ t.irqPending = s.irqPending ∧
      t.irqVector = s.irqVector) ∧
    (isr = 0 → ∀ l : Fin 16, cand.getLsbD l = true → (∀ k : Fin 16, k < l → cand.getLsbD k = false) →
      t.ioReg 8 1 = BitVec.ofNat 16 (2 ^ l.val) ∧ t.irqPending = true ∧
      t.irqVector = s.ioReg 8 4 + BitVec.ofNat 16 l.val ∧
      ∀ k : Fin 16, (t.ioReg 8 2).getLsbD k = ((s.ioReg 8 2).getLsbD k && decide (k ≠ l))) ∧
    (∀ p r, ¬(p = 8 ∧ (r = 1 ∨ r = 2 ∨ r = 3)) → t.ioReg p r = s.ioReg p r) ∧
    (∀ r, t.reg r = s.reg r) ∧ t.flags = s.flags ∧ t.halted = s.halted ∧ t.tick = s.tick ∧ t.banks = s.banks ∧
    SameBytes s t

/-- The lowest unmasked line that IRR, a timer or the DMA engine requests in a cycle is selected in it, if none stays
in service, and entered in the next (R332, R320, R324, R325, R326, R333, R300). -/
def Obligations.RequestIsEnteredInTheNextCycle : Prop :=
  ∀ (s : State) (i : Instr) (e0 : State), s.halted = false → Fetches s i e0 →
    ∃ e, exec i e0 = .next e ∧
      (∀ x, i = .ioOut x 8 2 →
        e.ioReg 8 2 = e0.reg x ∧ ∀ p r, ¬(p = 8 ∧ r = 2) → e.ioReg p r = s.ioReg p r) ∧
      ∀ l : Fin 16, Candidate e l → (∀ k : Fin 16, k < l → ¬ Candidate e k) → e.ioReg 8 1 &&& ~~~(e.ioReg 8 3) = 0 →
        ∃ t, step s = .next t ∧ t.irqPending = true ∧ t.irqVector = e.ioReg 8 4 + BitVec.ofNat 16 l.val ∧
          t.ioReg 8 1 = BitVec.ofNat 16 (2 ^ l.val) ∧ (t.ioReg 8 2).getLsbD l = false ∧
          (i ≠ .halt → t.halted = false ∧ step t = step t.interruptEntry) ∧ (i = .halt → step t = .next t)

/-- A timer counts in ticks that are multiples of PSC + 1, compares after counting, reloads and raises its line
(R341). -/
def Obligations.TimerStepCountsThenCompares : Prop :=
  ∀ (s : State) (i : Fin 3),
    let p : IoIx := ⟨4 + i.val, by omega⟩
    let t := s.timerStep i
    let down := (s.ioReg p 4).getLsbD 0
    let count := if down then s.ioReg p 0 - 1#16 else s.ioReg p 0 + 1#16
    let event := if down then count.toNat ≤ (s.ioReg p 2).toNat else (s.ioReg p 2).toNat ≤ count.toNat
    (s.tick.toNat % ((s.ioReg p 1).toNat + 1) ≠ 0 → t = s) ∧
    (s.tick.toNat % ((s.ioReg p 1).toNat + 1) = 0 →
      t.ioReg p 0 = (if event then s.ioReg p 3 else count) ∧
      (∀ k : Fin 16, (t.ioReg 8 2).getLsbD k =
        ((s.ioReg 8 2).getLsbD k || decide (event ∧ k = p ∧ (s.ioReg 8 0).getLsbD k = false))) ∧
      (∀ q r, ¬(q = p ∧ r = 0) → ¬(q = 8 ∧ r = 2) → t.ioReg q r = s.ioReg q r) ∧ OnlyIo s t ∧
      ∀ a, t.memRead8 a = s.memRead8 a)

/-- The next timer event comes after exactly CMP - INIT counted ticks (up) or INIT - CMP (down) (R344, R341). -/
def Obligations.TimerPeriodIsTheDistanceToTheComparator : Prop :=
  ∀ (s : State) (i : Fin 3),
    let p : IoIx := ⟨4 + i.val, by omega⟩
    let init := (s.ioReg p 3).toNat
    let cmp := (s.ioReg p 2).toNat
    let after := fun k => (fun u : State => u.timerStep i)^[k] s
    s.tick.toNat % ((s.ioReg p 1).toNat + 1) = 0 → s.ioReg p 0 = s.ioReg p 3 →
    ((s.ioReg p 4).getLsbD 0 = false → init < cmp →
      (∀ k, k < cmp - init → ((after k).ioReg p 0).toNat = init + k ∧ (after k).ioReg 8 2 = s.ioReg 8 2) ∧
      (after (cmp - init)).ioReg p 0 = s.ioReg p 3 ∧
      ((s.ioReg 8 0).getLsbD p = false → ((after (cmp - init)).ioReg 8 2).getLsbD p = true)) ∧
    ((s.ioReg p 4).getLsbD 0 = true → cmp < init →
      (∀ k, k < init - cmp → ((after k).ioReg p 0).toNat = init - k ∧ (after k).ioReg 8 2 = s.ioReg 8 2) ∧
      (after (init - cmp)).ioReg p 0 = s.ioReg p 3 ∧
      ((s.ioReg 8 0).getLsbD p = false → ((after (init - cmp)).ioReg 8 2).getLsbD p = true))

/-- A DMA count above 0x8000 sets ERR and copies nothing (R352). -/
def Obligations.DmaRejectsCountsAboveTheCeiling : Prop :=
  ∀ s : State, (s.ioReg 7 3).getLsbD 0 = true →
    (0x8000 < (s.ioReg 7 2).toNat →
      s.dmaStep.ioReg 7 4 = 0x0004 ∧ s.dmaStep.ioReg 7 3 = s.ioReg 7 3 &&& 0xFFFE ∧
      (∀ p r, ¬(p = 7 ∧ (r = 3 ∨ r = 4)) → s.dmaStep.ioReg p r = s.ioReg p r) ∧ OnlyIo s s.dmaStep ∧
      ∀ a, s.dmaStep.memRead8 a = s.memRead8 a) ∧
    ((s.ioReg 7 2).toNat ≤ 0x8000 → s.dmaStep.ioReg 7 4 = 0x0002)

/-- An accepted DMA transfer copies COUNT bytes one at a time, ascending (R350, R353). -/
def Obligations.DmaCopiesBytewiseAscending : Prop :=
  ∀ s : State,
    ((s.ioReg 7 3).getLsbD 0 = false → s.dmaStep = s) ∧
    ((s.ioReg 7 3).getLsbD 0 = true → (s.ioReg 7 2).toNat ≤ 0x8000 →
      let copied := (List.range (s.ioReg 7 2).toNat).foldl
        (fun u k => u.memWrite8 (s.ioReg 7 1 + BitVec.ofNat 16 k) (u.memRead8 (s.ioReg 7 0 + BitVec.ofNat 16 k))) s
      (∀ l, s.dmaStep.byteAt l = copied.byteAt l) ∧ (∀ a, s.dmaStep.memRead8 a = copied.memRead8 a) ∧
      s.dmaStep.ioReg 7 4 = 0x0002 ∧ s.dmaStep.ioReg 7 3 = s.ioReg 7 3 &&& 0xFFFE ∧
      (∀ k : Fin 16, (s.dmaStep.ioReg 8 2).getLsbD k = ((s.ioReg 8 2).getLsbD k ||
        decide (k = 7 ∧ (s.ioReg 7 3).getLsbD 1 = true ∧ (s.ioReg 8 0).getLsbD 7 = false))) ∧
      (∀ p r, ¬(p = 7 ∧ (r = 3 ∨ r = 4)) → ¬(p = 8 ∧ r = 2) → s.dmaStep.ioReg p r = s.ioReg p r) ∧
      (∀ r, s.dmaStep.reg r = s.reg r) ∧ s.dmaStep.flags = s.flags ∧ SameHidden s s.dmaStep)

/-- Where the ranges do not overlap, every destination byte gets its source byte (R350, R353). -/
def Obligations.DmaCopyOfDisjointRanges : Prop :=
  ∀ s : State, (s.ioReg 7 3).getLsbD 0 = true → (s.ioReg 7 2).toNat ≤ 0x8000 →
    (∀ k, k < (s.ioReg 7 2).toNat → s.canWrite (s.ioReg 7 1 + BitVec.ofNat 16 k) = true) →
    (∀ j k, j < (s.ioReg 7 2).toNat → k < (s.ioReg 7 2).toNat →
      s.translate (s.ioReg 7 1 + BitVec.ofNat 16 j) ≠ s.translate (s.ioReg 7 0 + BitVec.ofNat 16 k)) →
    ∀ k, k < (s.ioReg 7 2).toNat →
      s.dmaStep.memRead8 (s.ioReg 7 1 + BitVec.ofNat 16 k) = s.memRead8 (s.ioReg 7 0 + BitVec.ofNat 16 k)

/-- SUB followed by ADD of the same subtrahend restores the minuend (R172). -/
def Obligations.SubtractThenAddRestores : Prop :=
  ∀ (s : State) (x y : RegIx), y ≠ accIx →
    ∃ t u, exec (.sub x y) s = .next t ∧ exec (.add accIx y) t = .next u ∧ u.reg accIx = s.reg x

/-- DIV and MOD satisfy a = q * b + r with r < b (R173). -/
def Obligations.QuotientAndRemainderReconstruct : Prop :=
  ∀ (s : State) (x y : RegIx), s.reg y ≠ 0 →
    ∃ t u, exec (.div x y) s = .next t ∧ exec (.mod x y) s = .next u ∧
      (s.reg x).toNat = (t.reg accIx).toNat * (s.reg y).toNat + (u.reg accIx).toNat ∧
      (u.reg accIx).toNat < (s.reg y).toNat

/-- C and V after ADD and SUB say that the unsigned or signed result does not fit (R171, R140, R141, R18). -/
def Obligations.OverflowFlagsMeanOutOfRange : Prop :=
  ∀ (s : State) (x y : RegIx),
    ∃ t u, exec (.add x y) s = .next t ∧ exec (.sub x y) s = .next u ∧
      (t.flags.c = true ↔ 65535 < (s.reg x).toNat + (s.reg y).toNat) ∧
      (t.flags.v = true ↔ (s.reg x).toInt + (s.reg y).toInt < -32768 ∨ 32767 < (s.reg x).toInt + (s.reg y).toInt) ∧
      (u.flags.c = true ↔ (s.reg x).toNat < (s.reg y).toNat) ∧
      (u.flags.v = true ↔ (s.reg x).toInt - (s.reg y).toInt < -32768 ∨ 32767 < (s.reg x).toInt - (s.reg y).toInt)

/-- After reset every register, flag and I/O register has the spec's value (R400, R401, R402). -/
def Obligations.ResetValuesAreThoseOfTheSpec : Prop :=
  (∀ (b : BankCounts) (rom disk : Memory),
    let s := State.powerOn b rom disk
    (∀ r, s.reg r = 0) ∧ s.flags = ⟨false, false, false, false⟩ ∧ s.halted = false ∧ s.irqPending = false ∧
      s.irqVector = 0 ∧ s.tick = 0 ∧ s.ioReg 0 2 = 2 ∧ s.ioReg 8 0 = 0xFFFF ∧
      (∀ p r, ¬(p = 0 ∧ r = 2) → ¬(p = 8 ∧ r = 0) → s.ioReg p r = 0) ∧
      (∀ bank o, s.byteAt ⟨.ram, bank, o⟩ = 0) ∧ s.rom = rom ∧ s.disk = disk ∧ s.banks = b) ∧
    ∃ b rom disk, State.reset = State.powerOn b rom disk

/-- A later reset restores the registers and keeps ROM, DISK and RAM (R403). -/
def Obligations.LaterResetKeepsMemory : Prop :=
  (∀ (s : State) (b : BankCounts) (rom disk : Memory),
    let t := s.reapplyReset
    let p := State.powerOn b rom disk
    (∀ r, t.reg r = p.reg r) ∧ t.flags = p.flags ∧ t.halted = p.halted ∧ t.irqPending = p.irqPending ∧
      t.irqVector = p.irqVector ∧ t.tick = p.tick ∧ (∀ q r, t.ioReg q r = p.ioReg q r) ∧
      (∀ l, t.byteAt l = s.byteAt l) ∧ t.banks = s.banks) ∧
    ∀ (b : BankCounts) (rom disk : Memory) (bank : Nat) (o : BitVec 15),
      (State.powerOn b rom disk).byteAt ⟨.ram, bank, o⟩ = 0x00 ∧ (State.powerOn b rom disk).rom = rom ∧
        (State.powerOn b rom disk).disk = disk

/-- Injecting a scan code writes KBD_CODE and KBD_AVAIL and nothing else (R430). -/
def Obligations.InjectedScancodesOverwriteTheLast : Prop :=
  ∀ (s : State) (c c' : Word),
    let t := s.injectScancode c
    t.ioReg 1 0 = c ∧ t.ioReg 1 1 = 1 ∧ (∀ p r, ¬(p = 1 ∧ (r = 0 ∨ r = 1)) → t.ioReg p r = s.ioReg p r) ∧
      OnlyIo s t ∧ (∀ a, t.memRead8 a = s.memRead8 a) ∧ (t.injectScancode c').ioReg 1 0 = c'

/-- The flags image has N, Z, C, V in bits 3 to 0 and loses nothing (R36). -/
def Obligations.FlagsImageRoundTrips : Prop :=
  (∀ f : Flags, Flags.ofImage f.image = f ∧ f.image.toNat < 16 ∧ f.image.getLsbD 3 = f.n ∧ f.image.getLsbD 2 = f.z ∧
      f.image.getLsbD 1 = f.c ∧ f.image.getLsbD 0 = f.v) ∧
    ∀ w : Word, (Flags.ofImage w).image = w &&& 0x000F
end

