-- ==== Sys2Proof/Laws/Decode.lean ====
section
/-! SUPPORT. The fields of an instruction word, the bytes of a word, and the decoder on a list of words. -/

namespace Sys2Proof

@[simp] theorem fieldIx_fieldBits (i : Fin 16) : fieldIx (fieldBits i) = i := by revert i; decide

@[simp] theorem fieldBits_fieldIx (b : BitVec 4) : fieldBits (fieldIx b) = b := by revert b; decide

/-- The bits of an instruction word, field by field (R90). -/
theorem getLsbD_instrWord (c t x y : BitVec 4) (i : Nat) :
    (instrWord c t x y).getLsbD i =
      if i < 4 then y.getLsbD i else if i < 8 then x.getLsbD (i - 4) else if i < 12 then t.getLsbD (i - 8)
      else c.getLsbD (i - 12) := by
  have h : (instrWord c t x y).getLsbD i = (c ++ t ++ x ++ y : BitVec (4 + 4 + 4 + 4)).getLsbD i := rfl
  rw [h, BitVec.getLsbD_append, BitVec.getLsbD_append, BitVec.getLsbD_append]
  by_cases h1 : i < 4
  · simp [h1]
  · by_cases h2 : i < 8
    · simp [h1, h2, show i - 4 < 4 by omega]
    · by_cases h3 : i < 12
      · simp [h1, h2, h3, show ¬ i - 4 < 4 by omega, show i - 4 - 4 = i - 8 by omega, show i - 8 < 4 by omega]
      · simp [h1, h2, h3, show ¬ i - 4 < 4 by omega, show ¬ i - 4 - 4 < 4 by omega,
          show i - 4 - 4 - 4 = i - 12 by omega]

@[simp] theorem classOf_instrWord (c t x y : BitVec 4) : classOf (instrWord c t x y) = c := by
  ext i hi
  simp [classOf, getLsbD_instrWord, show ¬ 12 + i < 4 by omega, show ¬ 12 + i < 8 by omega,
    BitVec.getLsbD_eq_getElem hi]

@[simp] theorem tOf_instrWord (c t x y : BitVec 4) : tOf (instrWord c t x y) = t := by
  ext i hi
  simp [tOf, getLsbD_instrWord, show ¬ 8 + i < 4 by omega, show 8 + i < 12 by omega, BitVec.getLsbD_eq_getElem hi]

@[simp] theorem xOf_instrWord (c t x y : BitVec 4) : xOf (instrWord c t x y) = x := by
  ext i hi
  simp [xOf, getLsbD_instrWord, show 4 + i < 8 by omega, BitVec.getLsbD_eq_getElem hi]

@[simp] theorem yOf_instrWord (c t x y : BitVec 4) : yOf (instrWord c t x y) = y := by
  ext i hi
  simp [yOf, getLsbD_instrWord, hi]

/-- The bits of a word, byte by byte (R64). -/
theorem getLsbD_wordOf (lo hi : Byte) (i : Nat) :
    (wordOf lo hi).getLsbD i = if i < 8 then lo.getLsbD i else hi.getLsbD (i - 8) := by
  have h : (wordOf lo hi).getLsbD i = (hi ++ lo : BitVec (8 + 8)).getLsbD i := rfl
  rw [h, BitVec.getLsbD_append]

@[simp] theorem wordOf_bytes (w : Word) : wordOf (loByte w) (hiByte w) = w := by
  apply BitVec.eq_of_getLsbD_eq
  intro i hi
  rw [getLsbD_wordOf]
  by_cases h : i < 8
  · simp [loByte, h]
  · simp [hiByte, h, show 8 + (i - 8) = i by omega, show i - 8 < 8 by omega]

@[simp] theorem loByte_wordOf (lo hi : Byte) : loByte (wordOf lo hi) = lo := by
  ext i h
  simp [loByte, getLsbD_wordOf, h]

@[simp] theorem hiByte_wordOf (lo hi : Byte) : hiByte (wordOf lo hi) = hi := by
  ext i h
  simp [hiByte, getLsbD_wordOf, BitVec.getLsbD_eq_getElem h]

@[simp] theorem takeWord_bytes (w : Word) (rest : List Byte) :
    takeWord (loByte w :: hiByte w :: rest) = .ok (w, rest) := by simp [takeWord]

/-- A word that takes no extension word is one instruction (R95, R96). -/
theorem decodeBytes_one {w : Word} (hi : hasImm (classOf w) (tOf w) = false) (ha : hasAddr (classOf w) (tOf w) = false)
    (rest : List Byte) : decodeBytes (wordBytes [w] ++ rest) = .ok (decodeWords w 0 0, rest) := by
  simp [decodeBytes, wordBytes, takeExt, hi, ha]

/-- A word that takes an immediate only (R95, R96). -/
theorem decodeBytes_imm {w : Word} (imm : Word) (hi : hasImm (classOf w) (tOf w) = true)
    (ha : hasAddr (classOf w) (tOf w) = false) (rest : List Byte) :
    decodeBytes (wordBytes [w, imm] ++ rest) = .ok (decodeWords w imm 0, rest) := by
  simp [decodeBytes, wordBytes, takeExt, hi, ha]

/-- A word that takes an address only (R95, R96). -/
theorem decodeBytes_addr {w : Word} (ext : Word) (hi : hasImm (classOf w) (tOf w) = false)
    (ha : hasAddr (classOf w) (tOf w) = true) (rest : List Byte) :
    decodeBytes (wordBytes [w, ext] ++ rest) = .ok (decodeWords w 0 ext, rest) := by
  simp [decodeBytes, wordBytes, takeExt, hi, ha]

/-- A word that takes both, the immediate first (R91, R95, R96). -/
theorem decodeBytes_imm_addr {w : Word} (imm ext : Word) (hi : hasImm (classOf w) (tOf w) = true)
    (ha : hasAddr (classOf w) (tOf w) = true) (rest : List Byte) :
    decodeBytes (wordBytes [w, imm, ext] ++ rest) = .ok (decodeWords w imm ext, rest) := by
  simp [decodeBytes, wordBytes, takeExt, hi, ha]

/-! ## Fields and lengths as numbers -/

theorem toNat_wordOf (lo hi : Byte) : (wordOf lo hi).toNat = 256 * hi.toNat + lo.toNat := by
  have h : (wordOf lo hi).toNat = (hi ++ lo : BitVec (8 + 8)).toNat := rfl
  rw [h, BitVec.toNat_append, Nat.shiftLeft_eq, Nat.mul_comm, ← Nat.two_pow_add_eq_or_of_lt lo.isLt]

theorem toNat_classOf (w : Word) : (classOf w).toNat = w.toNat / 4096 := by
  have := w.isLt
  simp only [classOf, BitVec.extractLsb'_toNat, Nat.shiftRight_eq_div_pow]
  omega

theorem toNat_tOf (w : Word) : (tOf w).toNat = w.toNat / 256 % 16 := by
  simp only [tOf, BitVec.extractLsb'_toNat, Nat.shiftRight_eq_div_pow]

/-- The immediate word's table (R95) over numbers. -/
theorem hasImm_iff (c t : BitVec 4) :
    hasImm c t = true ↔ (c.toNat = 1 ∧ t.toNat = 1) ∨ (c.toNat = 3 ∧ t.toNat ≤ 9) ∨ (c.toNat = 5 ∧ t.toNat = 8) := by
  revert c t
  decide

/-- The address word's table (R95) over numbers. -/
theorem hasAddr_iff (c t : BitVec 4) :
    hasAddr c t = true ↔ (c.toNat = 5 ∧ 4 ≤ t.toNat ∧ t.toNat ≤ 8) ∨ c.toNat = 8 ∨ c.toNat = 10 := by
  revert c t
  decide

end Sys2Proof
end

