-- ==== Sys2Proof/Laws/Memory.lean ====
section
/-! SUPPORT. The laws of a backing store: a read after a write, and the canonical form kept by every operation. -/

namespace Sys2Proof.Machine

@[simp] theorem Memory.read_nil (k : Nat) : Memory.read [] k = unlisted := rfl

theorem Memory.read_setListed (m : Memory) (k j : Nat) (v : Byte) :
    (m.setListed k v).read j = if j = k then v else m.read j := by
  induction m with
  | nil => simp [Memory.setListed, Memory.read, eq_comm]
  | cons c m ih =>
    obtain ⟨a, b⟩ := c
    simp only [Memory.setListed]
    split
    · by_cases h : j = k
      · simp [Memory.read, h]
      · simp [Memory.read, h, Ne.symm h]
    · split
      · subst a
        by_cases h : j = k
        · simp [Memory.read, h]
        · simp [Memory.read, h, Ne.symm h]
      · by_cases h : j = k <;> simp_all [Memory.read]

theorem Memory.read_unlist (m : Memory) (k j : Nat) :
    (m.unlist k).read j = if j = k then unlisted else m.read j := by
  induction m with
  | nil => simp [Memory.unlist]
  | cons c m ih =>
    obtain ⟨a, b⟩ := c
    by_cases ha : a = k
    · subst a; by_cases h : j = k
      · subst h; simp_all [Memory.unlist]
      · have h' : ¬ k = j := fun e => h e.symm
        simp_all [Memory.unlist, Memory.read]
    · by_cases h : j = k
      · subst h; simp_all [Memory.unlist, Memory.read]
      · simp_all [Memory.unlist, Memory.read]

/-- A byte written reads back, and every other byte is as it was. -/
theorem Memory.read_write (m : Memory) (k j : Nat) (v : Byte) :
    (m.write k v).read j = if j = k then v else m.read j := by
  unfold Memory.write
  split
  · next h => subst h; exact Memory.read_unlist m k j
  · exact Memory.read_setListed m k j v

theorem Memory.mem_setListed {m : Memory} {k : Nat} {v : Byte} {c : Host.Cell} (h : c ∈ m.setListed k v) :
    c = (k, v) ∨ c ∈ m := by
  induction m with
  | nil => simpa [Memory.setListed] using h
  | cons d m ih =>
    obtain ⟨a, b⟩ := d
    simp only [Memory.setListed] at h
    split at h
    · simpa using h
    · split at h
      · rcases List.mem_cons.mp h with h | h
        · exact .inl h
        · exact .inr (List.mem_cons_of_mem _ h)
      · rcases List.mem_cons.mp h with h | h
        · exact .inr (h ▸ List.mem_cons_self)
        · exact (ih h).imp_right (List.mem_cons_of_mem _)

theorem Memory.mem_unlist {m : Memory} {k : Nat} {c : Host.Cell} (h : c ∈ m.unlist k) : c ∈ m := by
  induction m with
  | nil => simp [Memory.unlist] at h
  | cons d m ih =>
    obtain ⟨a, b⟩ := d
    simp only [Memory.unlist] at h
    split at h
    · exact List.mem_cons_of_mem _ (ih h)
    · rcases List.mem_cons.mp h with h | h
      · exact h ▸ List.mem_cons_self
      · exact List.mem_cons_of_mem _ (ih h)

theorem Memory.rising_setListed {m : Memory} {k : Nat} {v : Byte} (h : m.Pairwise (fun c d => c.1 < d.1)) :
    (m.setListed k v).Pairwise (fun c d => c.1 < d.1) := by
  induction m with
  | nil => simp [Memory.setListed]
  | cons d m ih =>
    obtain ⟨a, b⟩ := d
    obtain ⟨ha, hm⟩ := List.pairwise_cons.mp h
    simp only [Memory.setListed]
    split
    · next hk =>
      refine List.pairwise_cons.mpr ⟨fun c hc => ?_, h⟩
      rcases List.mem_cons.mp hc with rfl | hc
      · exact hk
      · exact Nat.lt_trans hk (ha c hc)
    · next hk =>
      split
      · next e => subst e; exact List.pairwise_cons.mpr ⟨ha, hm⟩
      · next e =>
        refine List.pairwise_cons.mpr ⟨fun c hc => ?_, ih hm⟩
        rcases Memory.mem_setListed hc with rfl | hc
        · exact Nat.lt_of_le_of_ne (Nat.le_of_not_lt hk) e
        · exact ha c hc

theorem Memory.rising_unlist {m : Memory} {k : Nat} (h : m.Pairwise (fun c d => c.1 < d.1)) :
    (m.unlist k).Pairwise (fun c d => c.1 < d.1) := by
  induction m with
  | nil => simp [Memory.unlist]
  | cons d m ih =>
    obtain ⟨a, b⟩ := d
    obtain ⟨ha, hm⟩ := List.pairwise_cons.mp h
    simp only [Memory.unlist]
    split
    · exact ih hm
    · exact List.pairwise_cons.mpr ⟨fun c hc => ha c (Memory.mem_unlist hc), ih hm⟩

/-- A write keeps the canonical form. -/
theorem Memory.wf_write {m : Memory} (h : m.wf) (k : Nat) (v : Byte) : (m.write k v).wf := by
  unfold Memory.write
  split
  · exact ⟨Memory.rising_unlist h.1, fun c hc => h.2 c (Memory.mem_unlist hc)⟩
  · next hv =>
    refine ⟨Memory.rising_setListed h.1, fun c hc => ?_⟩
    rcases Memory.mem_setListed hc with rfl | hc
    · exact hv
    · exact h.2 c hc

/-- A write inside the store's banks keeps every listed byte inside them. -/
theorem Memory.within_write {m : Memory} {banks : Nat} (h : m.within banks) {k : Nat} (hk : k < banks * bankSize)
    (v : Byte) : (m.write k v).within banks := by
  unfold Memory.write
  split
  · exact fun c hc => h c (Memory.mem_unlist hc)
  · intro c hc
    rcases Memory.mem_setListed hc with rfl | hc
    · exact hk
    · exact h c hc

/-- The empty store has the canonical form and lies in any number of banks. -/
theorem Memory.wf_nil (banks : Nat) : Memory.wf [] ∧ Memory.within [] banks := by
  simp [Memory.wf, Memory.within]

end Sys2Proof.Machine
end

