-- ==== Sys2Proof/Laws/State.lean ====
section
/-! SUPPORT. What each named update of State leaves in each field and in each reader: one lemma per field per update. -/

namespace Sys2Proof.Machine

variable (s : State)

/-! ## The names of registers -/

@[simp] theorem State.pc_eq : s.pc = s.reg pcIx := rfl
@[simp] theorem State.sp_eq : s.sp = s.reg spIx := rfl
@[simp] theorem State.setPc_eq (v : Word) : s.setPc v = s.setReg pcIx v := rfl
@[simp] theorem State.setSp_eq (v : Word) : s.setSp v = s.setReg spIx v := rfl
@[simp] theorem pcIx_ne_spIx : pcIx ≠ spIx := by decide
@[simp] theorem spIx_ne_pcIx : spIx ≠ pcIx := by decide
@[simp] theorem pcIx_ne_accIx : pcIx ≠ accIx := by decide
@[simp] theorem accIx_ne_pcIx : accIx ≠ pcIx := by decide
@[simp] theorem spIx_ne_accIx : spIx ≠ accIx := by decide
@[simp] theorem accIx_ne_spIx : accIx ≠ spIx := by decide

/-! ## setReg -/

@[simp] theorem State.flags_setReg (i : RegIx) (v : Word) : (s.setReg i v).flags = s.flags := rfl
@[simp] theorem State.halted_setReg (i : RegIx) (v : Word) : (s.setReg i v).halted = s.halted := rfl
@[simp] theorem State.irqPending_setReg (i : RegIx) (v : Word) : (s.setReg i v).irqPending = s.irqPending := rfl
@[simp] theorem State.irqVector_setReg (i : RegIx) (v : Word) : (s.setReg i v).irqVector = s.irqVector := rfl
@[simp] theorem State.tick_setReg (i : RegIx) (v : Word) : (s.setReg i v).tick = s.tick := rfl
@[simp] theorem State.io_setReg (i : RegIx) (v : Word) : (s.setReg i v).io = s.io := rfl
@[simp] theorem State.rom_setReg (i : RegIx) (v : Word) : (s.setReg i v).rom = s.rom := rfl
@[simp] theorem State.disk_setReg (i : RegIx) (v : Word) : (s.setReg i v).disk = s.disk := rfl
@[simp] theorem State.ram_setReg (i : RegIx) (v : Word) : (s.setReg i v).ram = s.ram := rfl
@[simp] theorem State.banks_setReg (i : RegIx) (v : Word) : (s.setReg i v).banks = s.banks := rfl
@[simp] theorem State.ioReg_setReg (i : RegIx) (v : Word) (p' r' : IoIx) : (s.setReg i v).ioReg p' r' = s.ioReg p' r' := rfl
@[simp] theorem State.translate_setReg (i : RegIx) (v : Word) (a : Word) : (s.setReg i v).translate a = s.translate a := rfl
@[simp] theorem State.memRead8_setReg (i : RegIx) (v : Word) (a : Word) : (s.setReg i v).memRead8 a = s.memRead8 a := rfl
@[simp] theorem State.memRead16_setReg (i : RegIx) (v : Word) (a : Word) : (s.setReg i v).memRead16 a = s.memRead16 a := rfl
@[simp] theorem State.store_setReg (i : RegIx) (v : Word) (k : StoreKind) : (s.setReg i v).store k = s.store k := by cases k <;> rfl
@[simp] theorem State.byteAt_setReg (i : RegIx) (v : Word) (l : Location) : (s.setReg i v).byteAt l = s.byteAt l := by simp [State.byteAt]

/-! ## setFlags -/

@[simp] theorem State.regs_setFlags (f : Flags) : (s.setFlags f).regs = s.regs := rfl
@[simp] theorem State.flags_setFlags (f : Flags) : (s.setFlags f).flags = f := rfl
@[simp] theorem State.halted_setFlags (f : Flags) : (s.setFlags f).halted = s.halted := rfl
@[simp] theorem State.irqPending_setFlags (f : Flags) : (s.setFlags f).irqPending = s.irqPending := rfl
@[simp] theorem State.irqVector_setFlags (f : Flags) : (s.setFlags f).irqVector = s.irqVector := rfl
@[simp] theorem State.tick_setFlags (f : Flags) : (s.setFlags f).tick = s.tick := rfl
@[simp] theorem State.io_setFlags (f : Flags) : (s.setFlags f).io = s.io := rfl
@[simp] theorem State.rom_setFlags (f : Flags) : (s.setFlags f).rom = s.rom := rfl
@[simp] theorem State.disk_setFlags (f : Flags) : (s.setFlags f).disk = s.disk := rfl
@[simp] theorem State.ram_setFlags (f : Flags) : (s.setFlags f).ram = s.ram := rfl
@[simp] theorem State.banks_setFlags (f : Flags) : (s.setFlags f).banks = s.banks := rfl
@[simp] theorem State.reg_setFlags (f : Flags) (j : RegIx) : (s.setFlags f).reg j = s.reg j := rfl
@[simp] theorem State.ioReg_setFlags (f : Flags) (p' r' : IoIx) : (s.setFlags f).ioReg p' r' = s.ioReg p' r' := rfl
@[simp] theorem State.translate_setFlags (f : Flags) (a : Word) : (s.setFlags f).translate a = s.translate a := rfl
@[simp] theorem State.memRead8_setFlags (f : Flags) (a : Word) : (s.setFlags f).memRead8 a = s.memRead8 a := rfl
@[simp] theorem State.memRead16_setFlags (f : Flags) (a : Word) : (s.setFlags f).memRead16 a = s.memRead16 a := rfl
@[simp] theorem State.store_setFlags (f : Flags) (k : StoreKind) : (s.setFlags f).store k = s.store k := by cases k <;> rfl
@[simp] theorem State.byteAt_setFlags (f : Flags) (l : Location) : (s.setFlags f).byteAt l = s.byteAt l := by simp [State.byteAt]

/-! ## setHalted -/

@[simp] theorem State.regs_setHalted : s.setHalted.regs = s.regs := rfl
@[simp] theorem State.flags_setHalted : s.setHalted.flags = s.flags := rfl
@[simp] theorem State.halted_setHalted : s.setHalted.halted = true := rfl
@[simp] theorem State.irqPending_setHalted : s.setHalted.irqPending = s.irqPending := rfl
@[simp] theorem State.irqVector_setHalted : s.setHalted.irqVector = s.irqVector := rfl
@[simp] theorem State.tick_setHalted : s.setHalted.tick = s.tick := rfl
@[simp] theorem State.io_setHalted : s.setHalted.io = s.io := rfl
@[simp] theorem State.rom_setHalted : s.setHalted.rom = s.rom := rfl
@[simp] theorem State.disk_setHalted : s.setHalted.disk = s.disk := rfl
@[simp] theorem State.ram_setHalted : s.setHalted.ram = s.ram := rfl
@[simp] theorem State.banks_setHalted : s.setHalted.banks = s.banks := rfl
@[simp] theorem State.reg_setHalted (j : RegIx) : s.setHalted.reg j = s.reg j := rfl
@[simp] theorem State.ioReg_setHalted (p' r' : IoIx) : s.setHalted.ioReg p' r' = s.ioReg p' r' := rfl
@[simp] theorem State.translate_setHalted (a : Word) : s.setHalted.translate a = s.translate a := rfl
@[simp] theorem State.memRead8_setHalted (a : Word) : s.setHalted.memRead8 a = s.memRead8 a := rfl
@[simp] theorem State.memRead16_setHalted (a : Word) : s.setHalted.memRead16 a = s.memRead16 a := rfl
@[simp] theorem State.store_setHalted (k : StoreKind) : s.setHalted.store k = s.store k := by cases k <;> rfl
@[simp] theorem State.byteAt_setHalted (l : Location) : s.setHalted.byteAt l = s.byteAt l := by simp [State.byteAt]

/-! ## setIrq -/

@[simp] theorem State.regs_setIrq (b : Bool) (v : Word) : (s.setIrq b v).regs = s.regs := rfl
@[simp] theorem State.flags_setIrq (b : Bool) (v : Word) : (s.setIrq b v).flags = s.flags := rfl
@[simp] theorem State.halted_setIrq (b : Bool) (v : Word) : (s.setIrq b v).halted = s.halted := rfl
@[simp] theorem State.irqPending_setIrq (b : Bool) (v : Word) : (s.setIrq b v).irqPending = b := rfl
@[simp] theorem State.irqVector_setIrq (b : Bool) (v : Word) : (s.setIrq b v).irqVector = v := rfl
@[simp] theorem State.tick_setIrq (b : Bool) (v : Word) : (s.setIrq b v).tick = s.tick := rfl
@[simp] theorem State.io_setIrq (b : Bool) (v : Word) : (s.setIrq b v).io = s.io := rfl
@[simp] theorem State.rom_setIrq (b : Bool) (v : Word) : (s.setIrq b v).rom = s.rom := rfl
@[simp] theorem State.disk_setIrq (b : Bool) (v : Word) : (s.setIrq b v).disk = s.disk := rfl
@[simp] theorem State.ram_setIrq (b : Bool) (v : Word) : (s.setIrq b v).ram = s.ram := rfl
@[simp] theorem State.banks_setIrq (b : Bool) (v : Word) : (s.setIrq b v).banks = s.banks := rfl
@[simp] theorem State.reg_setIrq (b : Bool) (v : Word) (j : RegIx) : (s.setIrq b v).reg j = s.reg j := rfl
@[simp] theorem State.ioReg_setIrq (b : Bool) (v : Word) (p' r' : IoIx) : (s.setIrq b v).ioReg p' r' = s.ioReg p' r' := rfl
@[simp] theorem State.translate_setIrq (b : Bool) (v : Word) (a : Word) : (s.setIrq b v).translate a = s.translate a := rfl
@[simp] theorem State.memRead8_setIrq (b : Bool) (v : Word) (a : Word) : (s.setIrq b v).memRead8 a = s.memRead8 a := rfl
@[simp] theorem State.memRead16_setIrq (b : Bool) (v : Word) (a : Word) : (s.setIrq b v).memRead16 a = s.memRead16 a := rfl
@[simp] theorem State.store_setIrq (b : Bool) (v : Word) (k : StoreKind) : (s.setIrq b v).store k = s.store k := by cases k <;> rfl
@[simp] theorem State.byteAt_setIrq (b : Bool) (v : Word) (l : Location) : (s.setIrq b v).byteAt l = s.byteAt l := by simp [State.byteAt]

/-! ## setTick -/

@[simp] theorem State.regs_setTick (t : BitVec 32) : (s.setTick t).regs = s.regs := rfl
@[simp] theorem State.flags_setTick (t : BitVec 32) : (s.setTick t).flags = s.flags := rfl
@[simp] theorem State.halted_setTick (t : BitVec 32) : (s.setTick t).halted = s.halted := rfl
@[simp] theorem State.irqPending_setTick (t : BitVec 32) : (s.setTick t).irqPending = s.irqPending := rfl
@[simp] theorem State.irqVector_setTick (t : BitVec 32) : (s.setTick t).irqVector = s.irqVector := rfl
@[simp] theorem State.tick_setTick (t : BitVec 32) : (s.setTick t).tick = t := rfl
@[simp] theorem State.io_setTick (t : BitVec 32) : (s.setTick t).io = s.io := rfl
@[simp] theorem State.rom_setTick (t : BitVec 32) : (s.setTick t).rom = s.rom := rfl
@[simp] theorem State.disk_setTick (t : BitVec 32) : (s.setTick t).disk = s.disk := rfl
@[simp] theorem State.ram_setTick (t : BitVec 32) : (s.setTick t).ram = s.ram := rfl
@[simp] theorem State.banks_setTick (t : BitVec 32) : (s.setTick t).banks = s.banks := rfl
@[simp] theorem State.reg_setTick (t : BitVec 32) (j : RegIx) : (s.setTick t).reg j = s.reg j := rfl
@[simp] theorem State.ioReg_setTick (t : BitVec 32) (p' r' : IoIx) : (s.setTick t).ioReg p' r' = s.ioReg p' r' := rfl
@[simp] theorem State.translate_setTick (t : BitVec 32) (a : Word) : (s.setTick t).translate a = s.translate a := rfl
@[simp] theorem State.memRead8_setTick (t : BitVec 32) (a : Word) : (s.setTick t).memRead8 a = s.memRead8 a := rfl
@[simp] theorem State.memRead16_setTick (t : BitVec 32) (a : Word) : (s.setTick t).memRead16 a = s.memRead16 a := rfl
@[simp] theorem State.store_setTick (t : BitVec 32) (k : StoreKind) : (s.setTick t).store k = s.store k := by cases k <;> rfl
@[simp] theorem State.byteAt_setTick (t : BitVec 32) (l : Location) : (s.setTick t).byteAt l = s.byteAt l := by simp [State.byteAt]

/-! ## setIo -/

@[simp] theorem State.regs_setIo (p r : IoIx) (v : Word) : (s.setIo p r v).regs = s.regs := rfl
@[simp] theorem State.flags_setIo (p r : IoIx) (v : Word) : (s.setIo p r v).flags = s.flags := rfl
@[simp] theorem State.halted_setIo (p r : IoIx) (v : Word) : (s.setIo p r v).halted = s.halted := rfl
@[simp] theorem State.irqPending_setIo (p r : IoIx) (v : Word) : (s.setIo p r v).irqPending = s.irqPending := rfl
@[simp] theorem State.irqVector_setIo (p r : IoIx) (v : Word) : (s.setIo p r v).irqVector = s.irqVector := rfl
@[simp] theorem State.tick_setIo (p r : IoIx) (v : Word) : (s.setIo p r v).tick = s.tick := rfl
@[simp] theorem State.rom_setIo (p r : IoIx) (v : Word) : (s.setIo p r v).rom = s.rom := rfl
@[simp] theorem State.disk_setIo (p r : IoIx) (v : Word) : (s.setIo p r v).disk = s.disk := rfl
@[simp] theorem State.ram_setIo (p r : IoIx) (v : Word) : (s.setIo p r v).ram = s.ram := rfl
@[simp] theorem State.banks_setIo (p r : IoIx) (v : Word) : (s.setIo p r v).banks = s.banks := rfl
@[simp] theorem State.reg_setIo (p r : IoIx) (v : Word) (j : RegIx) : (s.setIo p r v).reg j = s.reg j := rfl
@[simp] theorem State.store_setIo (p r : IoIx) (v : Word) (k : StoreKind) : (s.setIo p r v).store k = s.store k := by cases k <;> rfl
@[simp] theorem State.byteAt_setIo (p r : IoIx) (v : Word) (l : Location) : (s.setIo p r v).byteAt l = s.byteAt l := by simp [State.byteAt]

/-! ## Reading what was written -/

theorem State.reg_setReg (i j : RegIx) (v : Word) : (s.setReg i v).reg j = if j = i then v else s.reg j := by
  by_cases h : j = i
  · subst h; simp [State.reg, State.setReg]
  · have h' : (i : Nat) ≠ j := fun e => h (Fin.ext e.symm)
    simp [State.reg, State.setReg, h, h']

@[simp] theorem State.reg_setReg_same (i : RegIx) (v : Word) : (s.setReg i v).reg i = v := by simp [State.reg_setReg]

@[simp] theorem State.reg_setReg_ne {i j : RegIx} (h : j ≠ i) (v : Word) : (s.setReg i v).reg j = s.reg j := by
  simp [State.reg_setReg, h]

theorem State.ioReg_setIo (p r p' r' : IoIx) (v : Word) :
    (s.setIo p r v).ioReg p' r' = if p' = p ∧ r' = r then v else s.ioReg p' r' := by
  by_cases hp : p' = p
  · subst hp
    by_cases hr : r' = r
    · subst hr; simp [State.ioReg, State.setIo]
    · have h' : (r : Nat) ≠ r' := fun e => hr (Fin.ext e.symm)
      simp [State.ioReg, State.setIo, hr, h']
  · have h' : (p : Nat) ≠ p' := fun e => hp (Fin.ext e.symm)
    simp [State.ioReg, State.setIo, hp, h']

@[simp] theorem State.ioReg_setIo_same (p r : IoIx) (v : Word) : (s.setIo p r v).ioReg p r = v := by
  simp [State.ioReg_setIo]

@[simp] theorem State.ioReg_setIo_ne_port {p p' : IoIx} (h : p' ≠ p) (r r' : IoIx) (v : Word) :
    (s.setIo p r v).ioReg p' r' = s.ioReg p' r' := by simp [State.ioReg_setIo, h]

@[simp] theorem State.ioReg_setIo_ne_reg {r r' : IoIx} (h : r' ≠ r) (p : IoIx) (v : Word) :
    (s.setIo p r v).ioReg p r' = s.ioReg p r' := by simp [State.ioReg_setIo, h]

/-- The mapping depends on port 0 and the bank counts only (R62). -/
theorem State.translate_congr {s t : State} (hio : ∀ r, t.ioReg mmuPort r = s.ioReg mmuPort r) (hb : t.banks = s.banks)
    (a : Word) : t.translate a = s.translate a := by
  have hc : ∀ k, t.bankCount k = s.bankCount k := fun k => by cases k <;> simp [State.bankCount, hb]
  simp only [State.translate, hio, hc]

/-- A write of another port leaves the mapping (R45). -/
theorem State.translate_setIo {p : IoIx} (h : p ≠ mmuPort) (r : IoIx) (v a : Word) :
    (s.setIo p r v).translate a = s.translate a :=
  State.translate_congr (fun r' => State.ioReg_setIo_ne_port s (Ne.symm h) r r' v) rfl a

/-! ## Stores -/

@[simp] theorem State.regs_setStore (k : StoreKind) (m : Memory) : (s.setStore k m).regs = s.regs := by cases k <;> rfl
@[simp] theorem State.flags_setStore (k : StoreKind) (m : Memory) : (s.setStore k m).flags = s.flags := by cases k <;> rfl
@[simp] theorem State.halted_setStore (k : StoreKind) (m : Memory) : (s.setStore k m).halted = s.halted := by cases k <;> rfl
@[simp] theorem State.irqPending_setStore (k : StoreKind) (m : Memory) : (s.setStore k m).irqPending = s.irqPending := by cases k <;> rfl
@[simp] theorem State.irqVector_setStore (k : StoreKind) (m : Memory) : (s.setStore k m).irqVector = s.irqVector := by cases k <;> rfl
@[simp] theorem State.tick_setStore (k : StoreKind) (m : Memory) : (s.setStore k m).tick = s.tick := by cases k <;> rfl
@[simp] theorem State.io_setStore (k : StoreKind) (m : Memory) : (s.setStore k m).io = s.io := by cases k <;> rfl
@[simp] theorem State.banks_setStore (k : StoreKind) (m : Memory) : (s.setStore k m).banks = s.banks := by cases k <;> rfl
@[simp] theorem State.reg_setStore (k : StoreKind) (m : Memory) (j : RegIx) : (s.setStore k m).reg j = s.reg j := by
  cases k <;> rfl
@[simp] theorem State.ioReg_setStore (k : StoreKind) (m : Memory) (p r : IoIx) :
    (s.setStore k m).ioReg p r = s.ioReg p r := by cases k <;> rfl
@[simp] theorem State.translate_setStore (k : StoreKind) (m : Memory) (a : Word) :
    (s.setStore k m).translate a = s.translate a := by cases k <;> rfl
theorem State.store_setStore (k k' : StoreKind) (m : Memory) :
    (s.setStore k m).store k' = if k' = k then m else s.store k' := by cases k <;> cases k' <;> rfl

end Sys2Proof.Machine
end

