-- ==== Sys2Proof/Laws/Ops.lean ====
section
/-! SUPPORT. One law per shared operation over memory, the stack and the interrupt machinery. -/

namespace Sys2Proof.Machine

variable (s : State)

/-! ## Locations -/

/-- Two locations of one kind with one key are one location (R50). -/
theorem Location.key_inj {l l' : Location} (hk : l.kind = l'.kind) (h : l.key = l'.key) : l = l' := by
  obtain ⟨k, b, o⟩ := l
  obtain ⟨k', b', o'⟩ := l'
  simp only [Location.key, bankSize] at hk h
  have ho := o.isLt
  have ho' := o'.isLt
  have hb : b = b' := by omega
  have : o.toNat = o'.toNat := by subst hb; omega
  simp [hk, hb, BitVec.eq_of_toNat_eq this]

theorem State.byteAt_setByteAt (l l' : Location) (v : Byte) :
    (s.setByteAt l v).byteAt l' = if l' = l then v else s.byteAt l' := by
  unfold State.setByteAt State.byteAt
  rw [State.store_setStore]
  by_cases hk : l'.kind = l.kind
  · rw [if_pos hk, hk, Memory.read_write]
    by_cases h : l'.key = l.key
    · rw [if_pos h, if_pos (Location.key_inj hk h)]
    · rw [if_neg h, if_neg (fun e => h (by rw [e]))]
  · rw [if_neg hk, if_neg (fun e => hk (by rw [e]))]

/-- A translated location lies in one of its kind's banks (R62). -/
theorem State.translate_bank {s : State} {a : Word} {l : Location} (h : s.translate a = some l) :
    l.bank < s.bankCount l.kind := by
  unfold State.translate at h
  split at h
  · cases h
  · dsimp only at h
    split at h
    · cases h; assumption
    · cases h

/-- The offset of a translated address is its low fifteen bits (R61). -/
theorem State.translate_offset {s : State} {a : Word} {l : Location} (h : s.translate a = some l) :
    l.offset = a.extractLsb' 0 15 := by
  unfold State.translate at h
  split at h
  · cases h
  · dsimp only at h
    split at h
    · cases h; rfl
    · cases h

/-- An address and the next never translate to one location (R61). -/
theorem State.translate_succ_ne {s : State} {a : Word} {l : Location} (h : s.translate a = some l) :
    s.translate (a + 1#16) ≠ some l := by
  intro h'
  have e := (State.translate_offset h).symm.trans (State.translate_offset h')
  have := congrArg BitVec.toNat e
  simp only [BitVec.extractLsb'_toNat, Nat.shiftRight_zero, BitVec.toNat_add] at this
  have ha := a.isLt
  have h1 : (1#16).toNat = 1 := rfl
  omega

theorem Location.key_lt {l : Location} {n : Nat} (h : l.bank < n) : l.key < n * bankSize := by
  have := l.offset.isLt
  simp only [Location.key, bankSize] at *
  omega

/-! ## Byte writes -/

/-- What a byte write can do: nothing, or put the byte at the writable location its address translates to (R63). -/
theorem State.memWrite8_cases (a : Word) (v : Byte) :
    (s.canWrite a = false ∧ s.memWrite8 a v = s) ∨
      ∃ l, s.translate a = some l ∧ l.kind.writable = true ∧ s.canWrite a = true ∧ s.memWrite8 a v = s.setByteAt l v := by
  unfold State.memWrite8 State.canWrite
  cases h : s.translate a with
  | none => simp
  | some l => by_cases hw : l.kind.writable <;> simp [hw]

@[simp] theorem State.regs_memWrite8 (a : Word) (v : Byte) : (s.memWrite8 a v).regs = s.regs := by
  rcases s.memWrite8_cases a v with ⟨_, h⟩ | ⟨l, _, _, _, h⟩ <;> simp [h, State.setByteAt]
@[simp] theorem State.flags_memWrite8 (a : Word) (v : Byte) : (s.memWrite8 a v).flags = s.flags := by
  rcases s.memWrite8_cases a v with ⟨_, h⟩ | ⟨l, _, _, _, h⟩ <;> simp [h, State.setByteAt]
@[simp] theorem State.halted_memWrite8 (a : Word) (v : Byte) : (s.memWrite8 a v).halted = s.halted := by
  rcases s.memWrite8_cases a v with ⟨_, h⟩ | ⟨l, _, _, _, h⟩ <;> simp [h, State.setByteAt]
@[simp] theorem State.irqPending_memWrite8 (a : Word) (v : Byte) : (s.memWrite8 a v).irqPending = s.irqPending := by
  rcases s.memWrite8_cases a v with ⟨_, h⟩ | ⟨l, _, _, _, h⟩ <;> simp [h, State.setByteAt]
@[simp] theorem State.irqVector_memWrite8 (a : Word) (v : Byte) : (s.memWrite8 a v).irqVector = s.irqVector := by
  rcases s.memWrite8_cases a v with ⟨_, h⟩ | ⟨l, _, _, _, h⟩ <;> simp [h, State.setByteAt]
@[simp] theorem State.tick_memWrite8 (a : Word) (v : Byte) : (s.memWrite8 a v).tick = s.tick := by
  rcases s.memWrite8_cases a v with ⟨_, h⟩ | ⟨l, _, _, _, h⟩ <;> simp [h, State.setByteAt]
@[simp] theorem State.io_memWrite8 (a : Word) (v : Byte) : (s.memWrite8 a v).io = s.io := by
  rcases s.memWrite8_cases a v with ⟨_, h⟩ | ⟨l, _, _, _, h⟩ <;> simp [h, State.setByteAt]
@[simp] theorem State.banks_memWrite8 (a : Word) (v : Byte) : (s.memWrite8 a v).banks = s.banks := by
  rcases s.memWrite8_cases a v with ⟨_, h⟩ | ⟨l, _, _, _, h⟩ <;> simp [h, State.setByteAt]
@[simp] theorem State.reg_memWrite8 (a : Word) (v : Byte) (j : RegIx) : (s.memWrite8 a v).reg j = s.reg j := by
  simp [State.reg]
@[simp] theorem State.ioReg_memWrite8 (a : Word) (v : Byte) (p r : IoIx) :
    (s.memWrite8 a v).ioReg p r = s.ioReg p r := by simp [State.ioReg]
@[simp] theorem State.translate_memWrite8 (a : Word) (v : Byte) (b : Word) :
    (s.memWrite8 a v).translate b = s.translate b := State.translate_congr (by simp) (by simp) b
@[simp] theorem State.canWrite_memWrite8 (a : Word) (v : Byte) (b : Word) :
    (s.memWrite8 a v).canWrite b = s.canWrite b := by simp [State.canWrite]

/-- A byte write never changes ROM (R63). -/
@[simp] theorem State.rom_memWrite8 (a : Word) (v : Byte) : (s.memWrite8 a v).rom = s.rom := by
  rcases s.memWrite8_cases a v with ⟨_, h⟩ | ⟨l, _, hw, _, h⟩
  · rw [h]
  · obtain ⟨k, b, o⟩ := l
    cases k <;> simp_all [StoreKind.writable, State.setByteAt, State.setStore]

/-- The bytes of the backing stores after a byte write. -/
theorem State.byteAt_memWrite8 (a : Word) (v : Byte) (l : Location) :
    (s.memWrite8 a v).byteAt l = if s.translate a = some l ∧ l.kind.writable then v else s.byteAt l := by
  unfold State.memWrite8
  cases h : s.translate a with
  | none => simp
  | some l' =>
    by_cases e : l' = l
    · subst e; by_cases hw : l'.kind.writable <;> simp [hw, State.byteAt_setByteAt]
    · by_cases hw : l'.kind.writable <;> simp [hw, State.byteAt_setByteAt, e, Ne.symm e]

/-- The addresses after a byte write: the addresses that share the written location read as the byte (R63, R75). -/
theorem State.memRead8_memWrite8 (a : Word) (v : Byte) (b : Word) :
    (s.memWrite8 a v).memRead8 b =
      if s.translate a = s.translate b ∧ s.canWrite a then v else s.memRead8 b := by
  unfold State.memRead8
  rw [State.translate_memWrite8]
  cases hb : s.translate b with
  | none => by_cases ha : s.translate a = none <;> simp [ha, State.canWrite]
  | some l =>
    simp only [State.byteAt_memWrite8]
    by_cases ha : s.translate a = some l <;> simp [ha, State.canWrite]

/-- A byte write keeps the invariant. -/
theorem State.wf_memWrite8 {s : State} (h : s.wf) (a : Word) (v : Byte) : (s.memWrite8 a v).wf := by
  rcases s.memWrite8_cases a v with ⟨_, e⟩ | ⟨l, ht, hw, _, e⟩
  · rwa [e]
  · rw [e]
    have hk := Location.key_lt (State.translate_bank ht)
    obtain ⟨hb, hr, hd, hm⟩ := h
    obtain ⟨k, b, o⟩ := l
    cases k
    · simp [StoreKind.writable] at hw
    · exact ⟨hb, hr, ⟨Memory.wf_write hd.1 _ _, Memory.within_write hd.2 hk _⟩, hm⟩
    · exact ⟨hb, hr, hd, ⟨Memory.wf_write hm.1 _ _, Memory.within_write hm.2 hk _⟩⟩

/-! ## Word writes -/

@[simp] theorem State.regs_memWrite16 (a v : Word) : (s.memWrite16 a v).regs = s.regs := by simp [State.memWrite16]
@[simp] theorem State.flags_memWrite16 (a v : Word) : (s.memWrite16 a v).flags = s.flags := by simp [State.memWrite16]
@[simp] theorem State.halted_memWrite16 (a v : Word) : (s.memWrite16 a v).halted = s.halted := by simp [State.memWrite16]
@[simp] theorem State.irqPending_memWrite16 (a v : Word) : (s.memWrite16 a v).irqPending = s.irqPending := by simp [State.memWrite16]
@[simp] theorem State.irqVector_memWrite16 (a v : Word) : (s.memWrite16 a v).irqVector = s.irqVector := by simp [State.memWrite16]
@[simp] theorem State.tick_memWrite16 (a v : Word) : (s.memWrite16 a v).tick = s.tick := by simp [State.memWrite16]
@[simp] theorem State.io_memWrite16 (a v : Word) : (s.memWrite16 a v).io = s.io := by simp [State.memWrite16]
@[simp] theorem State.banks_memWrite16 (a v : Word) : (s.memWrite16 a v).banks = s.banks := by simp [State.memWrite16]
@[simp] theorem State.rom_memWrite16 (a v : Word) : (s.memWrite16 a v).rom = s.rom := by simp [State.memWrite16]
@[simp] theorem State.reg_memWrite16 (a v : Word) (j : RegIx) : (s.memWrite16 a v).reg j = s.reg j := by
  simp [State.memWrite16]
@[simp] theorem State.ioReg_memWrite16 (a v : Word) (p r : IoIx) : (s.memWrite16 a v).ioReg p r = s.ioReg p r := by
  simp [State.memWrite16]
@[simp] theorem State.translate_memWrite16 (a v b : Word) : (s.memWrite16 a v).translate b = s.translate b := by
  simp [State.memWrite16]
@[simp] theorem State.canWrite_memWrite16 (a v b : Word) : (s.memWrite16 a v).canWrite b = s.canWrite b := by
  simp [State.memWrite16]

theorem State.wf_memWrite16 {s : State} (h : s.wf) (a v : Word) : (s.memWrite16 a v).wf :=
  State.wf_memWrite8 (State.wf_memWrite8 h _ _) _ _

/-- A 16-bit write stores its two bytes, each where it can be written, and nothing else (R65). -/
theorem State.memWrite16_spec (a v : Word) :
    WordStored s (s.memWrite16 a v) a v ∧ SameBytesBut [a, a + 1#16] s (s.memWrite16 a v) := by
  refine ⟨⟨?_, ?_⟩, ?_, ?_⟩
  · unfold ByteStored State.memWrite16
    rw [State.memRead8_memWrite8, State.memRead8_memWrite8]
    by_cases h : s.canWrite a
    · obtain ⟨l, hl⟩ : ∃ l, s.translate a = some l := by
        cases ht : s.translate a with
        | none => simp [State.canWrite, ht] at h
        | some l => exact ⟨l, rfl⟩
      have := State.translate_succ_ne hl
      simp [hl, this, h, loByte]
    · by_cases h' : s.translate (a + 1#16) = s.translate a
      · have : s.canWrite (a + 1#16) = s.canWrite a := by simp [State.canWrite, h']
        simp_all
      · simp [h, h']
  · unfold ByteStored State.memWrite16
    rw [State.memRead8_memWrite8]
    by_cases h : s.canWrite (a + 1#16)
    · simp [h, hiByte]
    · have : ¬ (s.translate a = s.translate (a + 1#16) ∧ s.canWrite a = true) := fun ⟨e, hw⟩ => by
        simp [State.canWrite, e] at hw h
        simp_all
      simp [h, State.memRead8_memWrite8, this]
  · intro l hl
    have h0 := hl a (by simp)
    have h1 := hl (a + 1#16) (by simp)
    simp [State.memWrite16, State.byteAt_memWrite8, h0, h1]
  · intro b hb
    have h0 := hb a (by simp)
    have h1 := hb (a + 1#16) (by simp)
    simp [State.memWrite16, State.memRead8_memWrite8, h0, h1]

/-! ## The invariant and the updates that touch no store -/

@[simp] theorem State.wf_setReg (i : RegIx) (v : Word) : (s.setReg i v).wf ↔ s.wf := Iff.rfl
@[simp] theorem State.wf_setFlags (f : Flags) : (s.setFlags f).wf ↔ s.wf := Iff.rfl
@[simp] theorem State.wf_setHalted : s.setHalted.wf ↔ s.wf := Iff.rfl
@[simp] theorem State.wf_setIrq (b : Bool) (v : Word) : (s.setIrq b v).wf ↔ s.wf := Iff.rfl
@[simp] theorem State.wf_setTick (t : BitVec 32) : (s.setTick t).wf ↔ s.wf := Iff.rfl
@[simp] theorem State.wf_setIo (p r : IoIx) (v : Word) : (s.setIo p r v).wf ↔ s.wf := Iff.rfl

/-- The stores of the reset state have the canonical form (R400, R50). -/
theorem State.reset_stores_wf : State.reset.rom.wf ∧ State.reset.disk.wf ∧ State.reset.ram.wf :=
  ⟨(Memory.wf_nil 0).1, (Memory.wf_nil 0).1, (Memory.wf_nil 0).1⟩

/-! ## The stack -/

/-- A push: SP moves down by 2 and the cell at the new SP holds the value where it can be written; nothing else changes
(R220). -/
theorem State.push16_spec (v : Word) :
    (s.push16 v).reg spIx = s.reg spIx - 2#16 ∧ WordStored s (s.push16 v) (s.reg spIx - 2#16) v ∧
      OnlyRegsAndBytes [spIx] [s.reg spIx - 2#16, s.reg spIx - 2#16 + 1#16] s (s.push16 v) := by
  have h := (s.setReg spIx (s.reg spIx - 2#16)).memWrite16_spec (s.reg spIx - 2#16) v
  refine ⟨by simp [State.push16], h.1, fun r hr => ?_, by simp [State.push16], fun p r => by simp [State.push16],
    by simp [SameHidden, State.push16], ?_, h.2.2⟩
  · have : r ≠ spIx := by simpa using hr
    simp [State.push16, this]
  · intro l hl
    exact (h.2.1 l hl).trans (State.byteAt_setReg _ _ _ _)

/-- A pop: the cell at SP, and SP moved up by 2 (R220). -/
@[simp] theorem State.pop16_fst : s.pop16.1 = s.memRead16 (s.reg spIx) := rfl
@[simp] theorem State.pop16_snd : s.pop16.2 = s.setReg spIx (s.reg spIx + 2#16) := rfl

theorem State.wf_push16 {s : State} (h : s.wf) (v : Word) : (s.push16 v).wf :=
  State.wf_memWrite16 (s := s.setReg spIx (s.reg spIx - 2#16)) h _ _

@[simp] theorem State.io_push16 (v : Word) : (s.push16 v).io = s.io := by simp [State.push16]
@[simp] theorem State.flags_push16 (v : Word) : (s.push16 v).flags = s.flags := by simp [State.push16]
@[simp] theorem State.halted_push16 (v : Word) : (s.push16 v).halted = s.halted := by simp [State.push16]
@[simp] theorem State.irqPending_push16 (v : Word) : (s.push16 v).irqPending = s.irqPending := by simp [State.push16]
@[simp] theorem State.irqVector_push16 (v : Word) : (s.push16 v).irqVector = s.irqVector := by simp [State.push16]
@[simp] theorem State.tick_push16 (v : Word) : (s.push16 v).tick = s.tick := by simp [State.push16]
@[simp] theorem State.banks_push16 (v : Word) : (s.push16 v).banks = s.banks := by simp [State.push16]
@[simp] theorem State.rom_push16 (v : Word) : (s.push16 v).rom = s.rom := by simp [State.push16]
@[simp] theorem State.ioReg_push16 (v : Word) (p r : IoIx) : (s.push16 v).ioReg p r = s.ioReg p r := by
  simp [State.push16]
@[simp] theorem State.translate_push16 (v a : Word) : (s.push16 v).translate a = s.translate a := by
  simp [State.push16]

/-! ## Interrupts -/

/-- A raise touches nothing but IRR (R321). -/
theorem State.raiseLine_cases (l : Fin 16) :
    ((s.ioReg picPort 0).getLsbD l = true ∧ s.raiseLine l = s) ∨
      ((s.ioReg picPort 0).getLsbD l = false ∧
        s.raiseLine l = s.setIo picPort 2 (s.ioReg picPort 2 ||| BitVec.twoPow 16 l)) := by
  unfold State.raiseLine
  cases (s.ioReg picPort 0).getLsbD l <;> simp

/-- Interrupt entry as its two pushes and the jump (R330). -/
theorem State.interruptEntry_eq :
    s.interruptEntry =
      (((s.push16 (s.reg pcIx)).push16 s.flags.image).setReg pcIx s.irqVector).setIrq false s.irqVector := by
  simp [State.interruptEntry]

/-- The return as its two pops (R123). -/
theorem State.interruptReturn_eq :
    s.interruptReturn =
      (((s.setReg spIx (s.reg spIx + 2#16)).setFlags (Flags.ofImage (s.memRead16 (s.reg spIx)))).setReg spIx
        (s.reg spIx + 2#16 + 2#16)).setReg pcIx (s.memRead16 (s.reg spIx + 2#16)) := by
  simp [State.interruptReturn]

end Sys2Proof.Machine
end

