-- ==== Sys2Proof/Laws/Peripherals.lean ====
section
/-! SUPPORT. What a peripheral step can do, said once: it leaves the registers, FLAGS, the halted flag, the tick, ROM, the
mapping and every I/O port but the timers', the DMA engine's and the PIC's as they were, changes only bytes of mapped banks,
and keeps the invariant. -/

namespace Sys2Proof.Machine

/-- What every peripheral step leaves as it was. -/
structure PeripheralFrame (s t : State) : Prop where
  reg : ∀ r, t.reg r = s.reg r
  flags : t.flags = s.flags
  halted : t.halted = s.halted
  tick : t.tick = s.tick
  banks : t.banks = s.banks
  rom : t.rom = s.rom
  port : ∀ p r : IoIx, p.val < 4 ∨ 9 ≤ p.val → t.ioReg p r = s.ioReg p r
  unmapped : ∀ l, ¬ s.mapped l → t.byteAt l = s.byteAt l
  wf : s.wf → t.wf

theorem PeripheralFrame.refl (s : State) : PeripheralFrame s s :=
  ⟨fun _ => rfl, rfl, rfl, rfl, rfl, rfl, fun _ _ _ => rfl, fun _ _ => rfl, id⟩

/-- The mapping is as it was. -/
theorem PeripheralFrame.translate {s t : State} (h : PeripheralFrame s t) (a : Word) : t.translate a = s.translate a :=
  State.translate_congr (fun r => h.port mmuPort r (.inl (by decide))) h.banks a

theorem PeripheralFrame.trans {s t u : State} (h : PeripheralFrame s t) (h' : PeripheralFrame t u) :
    PeripheralFrame s u where
  reg r := (h'.reg r).trans (h.reg r)
  flags := h'.flags.trans h.flags
  halted := h'.halted.trans h.halted
  tick := h'.tick.trans h.tick
  banks := h'.banks.trans h.banks
  rom := h'.rom.trans h.rom
  port p r hp := (h'.port p r hp).trans (h.port p r hp)
  unmapped l hl := (h'.unmapped l fun ⟨a, ha⟩ => hl ⟨a, (h.translate a).symm.trans ha⟩).trans (h.unmapped l hl)
  wf hs := h'.wf (h.wf hs)

/-- A write of a device port is a peripheral's. -/
theorem PeripheralFrame.setIo (s : State) {p : IoIx} (hp : 4 ≤ p.val ∧ p.val ≤ 8) (r : IoIx) (v : Word) :
    PeripheralFrame s (s.setIo p r v) where
  reg _ := rfl
  flags := rfl
  halted := rfl
  tick := rfl
  banks := rfl
  rom := rfl
  port q r' hq := State.ioReg_setIo_ne_port s (fun e => by subst e; omega) r r' v
  unmapped l _ := s.byteAt_setIo p r v l
  wf := id

theorem PeripheralFrame.setIrq (s : State) (b : Bool) (v : Word) : PeripheralFrame s (s.setIrq b v) :=
  ⟨fun _ => rfl, rfl, rfl, rfl, rfl, rfl, fun _ _ _ => rfl, fun l _ => s.byteAt_setIrq b v l, id⟩

theorem PeripheralFrame.memWrite8 (s : State) (a : Word) (v : Byte) : PeripheralFrame s (s.memWrite8 a v) where
  reg r := by simp
  flags := by simp
  halted := by simp
  tick := by simp
  banks := by simp
  rom := by simp
  port p r _ := by simp
  unmapped l hl := by
    rw [State.byteAt_memWrite8, if_neg]
    exact fun h => hl ⟨a, h.1⟩
  wf h := State.wf_memWrite8 h a v

theorem PeripheralFrame.raiseLine (s : State) (l : Fin 16) : PeripheralFrame s (s.raiseLine l) := by
  rcases s.raiseLine_cases l with ⟨_, h⟩ | ⟨_, h⟩ <;> rw [h]
  · exact .refl s
  · exact .setIo s (by decide) 2 _

theorem timerPort_device (i : Fin 3) : 4 ≤ (timerPort i).val ∧ (timerPort i).val ≤ 8 := by
  simp only [timerPort]; omega

theorem PeripheralFrame.timerStep (s : State) (i : Fin 3) : PeripheralFrame s (s.timerStep i) := by
  unfold State.timerStep
  split
  · unfold State.timerCount
    dsimp only
    split
    all_goals split
    all_goals first
      | exact (PeripheralFrame.setIo s (timerPort_device i) 0 _).trans (.raiseLine _ _)
      | exact .setIo s (timerPort_device i) 0 _
  · exact .refl s

theorem PeripheralFrame.dmaCopy (s : State) (n : Nat) (src dst : Word) : PeripheralFrame s (s.dmaCopy n src dst) := by
  induction n generalizing s src dst with
  | zero => exact .refl s
  | succ n ih => exact (PeripheralFrame.memWrite8 s dst _).trans (ih _ _ _)

theorem PeripheralFrame.dmaTransfer (s : State) : PeripheralFrame s s.dmaTransfer := by
  have h := (PeripheralFrame.dmaCopy s (s.ioReg dmaPort 2).toNat (s.ioReg dmaPort 0) (s.ioReg dmaPort 1)).trans
    (PeripheralFrame.setIo _ (p := dmaPort) (by decide) 4 0x0002)
  unfold State.dmaTransfer
  dsimp only
  split
  · exact h.trans (.raiseLine _ _)
  · exact h

theorem PeripheralFrame.dmaStep (s : State) : PeripheralFrame s s.dmaStep := by
  unfold State.dmaStep
  split
  · dsimp only
    split
    · exact (PeripheralFrame.setIo s (p := dmaPort) (by decide) 4 _).trans (.setIo _ (by decide) 3 _)
    · exact (PeripheralFrame.dmaTransfer s).trans (.setIo _ (by decide) 3 _)
  · exact .refl s

theorem PeripheralFrame.applyEoi (s : State) : PeripheralFrame s s.applyEoi :=
  (PeripheralFrame.setIo s (p := picPort) (by decide) 1 _).trans (.setIo _ (by decide) 3 _)

theorem PeripheralFrame.selectLine (s : State) (l : Fin 16) : PeripheralFrame s (s.selectLine l) :=
  ((PeripheralFrame.setIo s (p := picPort) (by decide) 2 _).trans (.setIo _ (by decide) 1 _)).trans (.setIrq _ _ _)

theorem PeripheralFrame.picStep (s : State) : PeripheralFrame s s.picStep := by
  unfold State.picStep
  dsimp only
  split
  · split
    · exact .applyEoi s
    · exact (PeripheralFrame.applyEoi s).trans (.selectLine _ _)
  · exact .applyEoi s

theorem PeripheralFrame.peripheralSteps (s : State) : PeripheralFrame s s.peripheralSteps :=
  ((((PeripheralFrame.timerStep s 0).trans (.timerStep _ 1)).trans (.timerStep _ 2)).trans (.dmaStep _)).trans
    (.picStep _)

/-! ## Each device's own registers -/

/-- A timer step leaves every I/O register but its COUNT and the PIC's IRR (R341). -/
theorem State.ioReg_timerStep (s : State) (i : Fin 3) {p r : IoIx} (h : ¬(p = timerPort i ∧ r = 0))
    (h' : ¬(p = picPort ∧ r = 2)) : (s.timerStep i).ioReg p r = s.ioReg p r := by
  unfold State.timerStep
  split
  · unfold State.timerCount State.raiseLine
    dsimp only
    split <;> split <;> (try split) <;> simp [State.ioReg_setIo, h, h']
  · rfl

theorem State.ioReg_raiseLine (s : State) (l : Fin 16) {p r : IoIx} (h : ¬(p = picPort ∧ r = 2)) :
    (s.raiseLine l).ioReg p r = s.ioReg p r := by
  rcases s.raiseLine_cases l with ⟨_, e⟩ | ⟨_, e⟩ <;> simp [e, State.ioReg_setIo, h]

@[simp] theorem State.ioReg_dmaCopy (s : State) (n : Nat) (src dst : Word) (p r : IoIx) :
    (s.dmaCopy n src dst).ioReg p r = s.ioReg p r := by
  induction n generalizing s src dst with
  | zero => rfl
  | succ n ih => simp [State.dmaCopy, ih]

theorem State.ioReg_dmaTransfer (s : State) {p r : IoIx} (h : ¬(p = dmaPort ∧ r = 4)) (h' : ¬(p = picPort ∧ r = 2)) :
    s.dmaTransfer.ioReg p r = s.ioReg p r := by
  unfold State.dmaTransfer
  dsimp only
  split
  · rw [State.ioReg_raiseLine _ _ h']; simp [State.ioReg_setIo, h]
  · simp [State.ioReg_setIo, h]

/-- A DMA step leaves every I/O register but its CTRL and STAT and the PIC's IRR (R350). -/
theorem State.ioReg_dmaStep (s : State) {p r : IoIx} (h : ¬(p = dmaPort ∧ (r = 3 ∨ r = 4))) (h' : ¬(p = picPort ∧ r = 2)) :
    s.dmaStep.ioReg p r = s.ioReg p r := by
  have h3 : ¬(p = dmaPort ∧ r = 3) := fun ⟨a, b⟩ => h ⟨a, .inl b⟩
  have h4 : ¬(p = dmaPort ∧ r = 4) := fun ⟨a, b⟩ => h ⟨a, .inr b⟩
  unfold State.dmaStep
  split
  · dsimp only
    rw [State.ioReg_setIo, if_neg h3]
    split
    · rw [State.ioReg_setIo, if_neg h4]
    · exact State.ioReg_dmaTransfer s h4 h'
  · rfl

/-! ## Requests raised in a cycle (R321, R332, R343, R350) -/

theorem getLsbD_twoPow16 (l k : Fin 16) : (BitVec.twoPow 16 l.val).getLsbD k.val = decide (k = l) := by
  revert l k; decide

/-- A raise requests its line if it is unmasked, and no other line (R321). -/
theorem State.irr_raiseLine (s : State) (l k : Fin 16) :
    ((s.raiseLine l).ioReg picPort 2).getLsbD k = true ↔
      (s.ioReg picPort 2).getLsbD k = true ∨ (k = l ∧ (s.ioReg picPort 0).getLsbD k = false) := by
  rcases s.raiseLine_cases l with ⟨h, e⟩ | ⟨h, e⟩
  · rw [e]
    refine ⟨.inl, fun hk => hk.elim id fun ⟨a, b⟩ => ?_⟩
    subst a
    rw [h] at b
    cases b
  · rw [e, State.ioReg_setIo_same, BitVec.getLsbD_or, getLsbD_twoPow16, Bool.or_eq_true, decide_eq_true_eq]
    exact or_congr_right ⟨fun a => ⟨a, a ▸ h⟩, And.left⟩

/-- A timer step requests its line if it has an event and the line is unmasked, and no other line (R341, R343). -/
theorem State.irr_timerStep (s : State) (i : Fin 3) (k : Fin 16) :
    ((s.timerStep i).ioReg picPort 2).getLsbD k = true ↔
      (s.ioReg picPort 2).getLsbD k = true ∨
        (k = timerLine i ∧ TimerEvent s i ∧ (s.ioReg picPort 0).getLsbD k = false) := by
  have hp : picPort ≠ timerPort i := by revert i; decide
  have e (v : Word) (r : IoIx) : (s.setIo (timerPort i) 0 v).ioReg picPort r = s.ioReg picPort r :=
    State.ioReg_setIo_ne_port s hp 0 r v
  change _ ↔ _ ∨ (_ ∧ (s.tick.toNat % ((s.ioReg (timerPort i) 1).toNat + 1) = 0 ∧
    if (s.ioReg (timerPort i) 4).getLsbD 0 = true then
      (s.ioReg (timerPort i) 0 - 1#16).toNat ≤ (s.ioReg (timerPort i) 2).toNat
    else (s.ioReg (timerPort i) 2).toNat ≤ (s.ioReg (timerPort i) 0 + 1#16).toNat) ∧ _)
  unfold State.timerStep State.timerCount prescaleDivisor
  dsimp only
  by_cases h : s.tick.toNat % ((s.ioReg (timerPort i) 1).toNat + 1) = 0
  · by_cases hd : (s.ioReg (timerPort i) 4).getLsbD 0 = true <;>
      simp only [h, hd, if_true, if_false, Bool.false_eq_true, BitVec.le_def, decide_eq_true_eq, true_and] <;>
      split <;> simp only [State.irr_raiseLine, *, true_and, false_and, and_false, or_false]
  · simp only [h, if_false, false_and, and_false, or_false]

/-- A DMA step requests line 7 if it completes a transfer with IRQEN and the line is unmasked, and no other line (R350). -/
theorem State.irr_dmaStep (s : State) (k : Fin 16) :
    (s.dmaStep.ioReg picPort 2).getLsbD k = true ↔
      (s.ioReg picPort 2).getLsbD k = true ∨
        (k = dmaLine ∧ DmaInterrupt s ∧ (s.ioReg picPort 0).getLsbD k = false) := by
  have hp : picPort ≠ dmaPort := by decide
  change _ ↔ _ ∨ (_ ∧ ((s.ioReg dmaPort 3).getLsbD 0 = true ∧ (s.ioReg dmaPort 3).getLsbD 1 = true ∧
    (s.ioReg dmaPort 2).toNat ≤ 0x8000) ∧ _)
  unfold State.dmaStep State.dmaTransfer dmaMax
  dsimp only
  by_cases h0 : (s.ioReg dmaPort 3).getLsbD 0 = true
  · by_cases h : 0x8000 < (s.ioReg dmaPort 2).toNat
    · simp only [h0, h, if_true, State.ioReg_setIo_ne_port _ hp, Nat.not_le.mpr h, and_false, false_and, or_false]
    · by_cases h1 : (s.ioReg dmaPort 3).getLsbD 1 = true <;>
        simp only [h0, h, h1, if_true, if_false, State.ioReg_setIo_ne_port _ hp, State.ioReg_dmaCopy, State.irr_raiseLine,
          Nat.not_lt.mp h, true_and, and_true, false_and, and_false, or_false, Bool.false_eq_true]
  · simp only [h0, if_false, false_and, and_false, or_false, Bool.false_eq_true]

/-- A timer's event depends on the tick and the timer's own registers alone (R341). -/
theorem TimerEvent.congr {s t : State} (ht : t.tick = s.tick) (i : Fin 3)
    (h : ∀ r, t.ioReg (timerPort i) r = s.ioReg (timerPort i) r) : TimerEvent t i ↔ TimerEvent s i := by
  change (t.tick.toNat % ((t.ioReg (timerPort i) 1).toNat + 1) = 0 ∧
    if (t.ioReg (timerPort i) 4).getLsbD 0 = true then
      (t.ioReg (timerPort i) 0 - 1#16).toNat ≤ (t.ioReg (timerPort i) 2).toNat
    else (t.ioReg (timerPort i) 2).toNat ≤ (t.ioReg (timerPort i) 0 + 1#16).toNat) ↔ _
  rw [ht]
  simp only [h]
  exact Iff.rfl

/-- The DMA engine's interrupt depends on its own registers alone (R350). -/
theorem DmaInterrupt.congr {s t : State} (h : ∀ r, t.ioReg dmaPort r = s.ioReg dmaPort r) :
    DmaInterrupt t ↔ DmaInterrupt s := by
  change (t.ioReg dmaPort 3).getLsbD 0 = true ∧ (t.ioReg dmaPort 3).getLsbD 1 = true ∧
    (t.ioReg dmaPort 2).toNat ≤ 0x8000 ↔ _
  simp only [h]
  exact Iff.rfl

theorem picPort_ne_timerPort (i : Fin 3) : picPort ≠ timerPort i := by
  revert i
  decide

theorem dmaPort_ne_timerPort (i : Fin 3) : dmaPort ≠ timerPort i := by
  revert i
  decide

/-- A timer step leaves the other devices' registers as they were. -/
theorem State.ioReg_timerStep_of_ne_port (s : State) (i : Fin 3) {p : IoIx} (hp : p ≠ timerPort i) (hq : p ≠ picPort)
    (r : IoIx) : (s.timerStep i).ioReg p r = s.ioReg p r :=
  State.ioReg_timerStep s i (fun h => hp h.1) (fun h => hq h.1)

/-- A timer step leaves every PIC register but IRR. -/
theorem State.ioReg_pic_timerStep (s : State) (i : Fin 3) {r : IoIx} (hr : r ≠ 2) :
    (s.timerStep i).ioReg picPort r = s.ioReg picPort r :=
  State.ioReg_timerStep s i (fun h => picPort_ne_timerPort i h.1) (fun h => hr h.2)

/-- What IRR holds after the three timer steps (R301, R343). -/
theorem State.irr_timerSteps (s : State) (l : Fin 16) :
    ((((s.timerStep 0).timerStep 1).timerStep 2).ioReg picPort 2).getLsbD l = true ↔
      (s.ioReg picPort 2).getLsbD l = true ∨
        ∃ i : Fin 3, l = timerLine i ∧ TimerEvent s i ∧ (s.ioReg picPort 0).getLsbD l = false := by
  have h1 : TimerEvent (s.timerStep 0) 1 ↔ TimerEvent s 1 :=
    TimerEvent.congr (PeripheralFrame.timerStep s 0).tick 1
      fun r => State.ioReg_timerStep_of_ne_port _ _ (by decide) (by decide) r
  have h2 : TimerEvent ((s.timerStep 0).timerStep 1) 2 ↔ TimerEvent s 2 :=
    (TimerEvent.congr (PeripheralFrame.timerStep _ 1).tick 2
      fun r => State.ioReg_timerStep_of_ne_port _ _ (by decide) (by decide) r).trans
    (TimerEvent.congr (PeripheralFrame.timerStep s 0).tick 2
      fun r => State.ioReg_timerStep_of_ne_port _ _ (by decide) (by decide) r)
  rw [State.irr_timerStep, State.irr_timerStep, State.irr_timerStep, h1, h2]
  simp only [State.ioReg_pic_timerStep _ _ (show (0 : IoIx) ≠ 2 by decide)]
  rw [Fin.exists_fin_succ, Fin.exists_fin_succ, Fin.exists_fin_succ]
  simp [or_assoc]

/-- The requests the PIC step finds unmasked are the cycle's candidates (R301, R332). -/
theorem State.irr_before_picStep (s : State) (l : Fin 16) :
    ((((s.timerStep 0).timerStep 1).timerStep 2).dmaStep.ioReg picPort 2).getLsbD l = true ∧
      (s.ioReg picPort 0).getLsbD l = false ↔ Candidate s l := by
  have hd := DmaInterrupt.congr (s := s) (t := ((s.timerStep 0).timerStep 1).timerStep 2) fun r => by
    simp only [State.ioReg_timerStep_of_ne_port _ _ (dmaPort_ne_timerPort _) (show dmaPort ≠ picPort by decide)]
  have ht : ∀ i : Fin 3, l = timerLine i ↔ l.val = 4 + i.val := fun i => Fin.ext_iff
  rw [State.irr_dmaStep, State.irr_timerSteps, hd]
  simp only [State.ioReg_pic_timerStep _ _ (show (0 : IoIx) ≠ 2 by decide), ht]
  change _ ↔ (s.ioReg picPort 0).getLsbD l = false ∧
    ((s.ioReg picPort 2).getLsbD l = true ∨ _ ∨ (l = dmaLine ∧ _))
  generalize DmaInterrupt s = D
  generalize (s.ioReg picPort 0).getLsbD l = m
  generalize TimerEvent s = T
  cases m <;> simp [or_assoc]

/-! ## The PIC step -/

/-- A PIC step leaves every I/O register but ISR, IRR and EOI (R324). -/
theorem State.ioReg_picStep (s : State) {p r : IoIx} (h : ¬(p = picPort ∧ (r = 1 ∨ r = 2 ∨ r = 3))) :
    s.picStep.ioReg p r = s.ioReg p r := by
  have h1 : ¬(p = picPort ∧ r = 1) := fun ⟨a, b⟩ => h ⟨a, .inl b⟩
  have h2 : ¬(p = picPort ∧ r = 2) := fun ⟨a, b⟩ => h ⟨a, .inr (.inl b)⟩
  have h3 : ¬(p = picPort ∧ r = 3) := fun ⟨a, b⟩ => h ⟨a, .inr (.inr b)⟩
  unfold State.picStep
  dsimp only
  split
  · split <;> simp [State.selectLine, State.applyEoi, State.ioReg_setIo, h1, h2, h3]
  · simp [State.applyEoi, State.ioReg_setIo, h1, h3]

theorem mem_irqLines : ∀ l : Fin 16, l ∈ irqLines := by decide

/-- The lowest set bit, and none only for 0 (R324). -/
theorem lowestLine_spec (cand : Word) :
    match lowestLine cand with
    | none => cand = 0
    | some l => cand.getLsbD l = true ∧ ∀ k : Fin 16, k < l → cand.getLsbD k = false := by
  cases h : lowestLine cand with
  | none =>
    have hn : ∀ l ∈ irqLines, ¬ cand.getLsbD l = true := by
      simpa [lowestLine, List.find?_eq_none] using h
    apply BitVec.eq_of_getLsbD_eq
    intro i hi
    have := hn ⟨i, hi⟩ (mem_irqLines _)
    simpa using this
  | some l =>
    obtain ⟨hl, as, bs, hab, hn⟩ := List.find?_eq_some_iff_append.mp h
    refine ⟨by simpa using hl, fun k hk => ?_⟩
    have hk' : k ∈ as := by
      have hmem : k ∈ irqLines := mem_irqLines k
      rw [hab] at hmem
      rcases List.mem_append.mp hmem with h | h
      · exact h
      · exfalso
        have hs : irqLines.Pairwise (· < ·) := by decide
        rw [hab] at hs
        have := (List.pairwise_append.mp hs).2.1
        rcases List.mem_cons.mp h with h | h
        · exact absurd hk (by simp [h])
        · exact absurd hk (Fin.lt_asymm ((List.pairwise_cons.mp this).1 k h))
    simpa using hn k hk'

/-- The lowest set bit is the one below which none is set (R324). -/
theorem lowestLine_eq_some {cand : Word} {l : Fin 16} (h : cand.getLsbD l = true)
    (hk : ∀ k : Fin 16, k < l → ¬ cand.getLsbD k = true) : lowestLine cand = some l := by
  have hs := lowestLine_spec cand
  cases hc : lowestLine cand with
  | none =>
    rw [hc] at hs
    subst hs
    simp at h
  | some j =>
    rw [hc] at hs
    rcases lt_trichotomy j l with hl | rfl | hl
    · exact absurd hs.1 (hk j hl)
    · rfl
    · exact absurd h (by rw [hs.2 l hl]; simp)

end Sys2Proof.Machine
end

