-- ==== Sys2Proof/Laws/Cycle.lean ====
section
/-! SUPPORT. What the parts of a cycle around the execute phase can do, said once. -/

namespace Sys2Proof.Machine

variable (s : State)

@[simp] theorem State.fetchWord_fst : s.fetchWord.1 = s.memRead16 (s.reg pcIx) := rfl
@[simp] theorem State.fetchWord_snd : s.fetchWord.2 = s.setReg pcIx (s.reg pcIx + 2#16) := rfl
@[simp] theorem State.fetchExt_false : s.fetchExt false = (0, s) := rfl
@[simp] theorem State.fetchExt_true : s.fetchExt true = s.fetchWord := rfl

/-- Fetch and decode changes PC alone (R96). -/
theorem State.fetchDecode_snd : ∃ pc, s.fetchDecode.2 = s.setReg pcIx pc := by
  have hh : ∀ v w, (s.setReg pcIx v).setReg pcIx w = s.setReg pcIx w := fun v w => by simp [State.setReg]
  unfold State.fetchDecode
  simp only [State.fetchWord_fst, State.fetchWord_snd]
  cases hasImm (classOf (s.memRead16 (s.reg pcIx))) (tOf (s.memRead16 (s.reg pcIx))) <;>
    cases hasAddr (classOf (s.memRead16 (s.reg pcIx))) (tOf (s.memRead16 (s.reg pcIx))) <;>
    simp only [State.fetchExt_false, State.fetchExt_true, State.fetchWord_snd, hh] <;> exact ⟨_, rfl⟩

/-- Fetch and decode is decoding the bytes the machine reads from PC on, with PC moved past those decoded (R96, R67). -/
theorem State.fetchDecode_of_decodeBytes {i : Instr} {rest : List Byte}
    (h : decodeBytes (s.window (s.reg pcIx)) = .ok (i, rest)) :
    s.fetchDecode = (i, s.setReg pcIx (s.reg pcIx + BitVec.ofNat 16 (6 - rest.length))) := by
  have hh : ∀ v w, (s.setReg pcIx v).setReg pcIx w = s.setReg pcIx w := fun v w => by simp [State.setReg]
  have h2 : ∀ a : Word, wordOf (s.memRead8 a) (s.memRead8 (a + 1#16)) = s.memRead16 a := fun _ => rfl
  have e2 : ∀ a : Word, a + 2#16 + 1#16 = a + 3#16 := fun a => by bv_omega
  have e4 : ∀ a : Word, a + 4#16 + 1#16 = a + 5#16 := fun a => by bv_omega
  have e22 : ∀ a : Word, a + 2#16 + 2#16 = a + 4#16 := fun a => by bv_omega
  have e42 : ∀ a : Word, a + 4#16 + 2#16 = a + 6#16 := fun a => by bv_omega
  simp only [State.window, ← e2, ← e4, decodeBytes, takeWord, h2] at h
  unfold State.fetchDecode
  simp only [State.fetchWord_fst, State.fetchWord_snd]
  revert h
  cases hasImm (classOf (s.memRead16 (s.reg pcIx))) (tOf (s.memRead16 (s.reg pcIx))) <;>
    cases hasAddr (classOf (s.memRead16 (s.reg pcIx))) (tOf (s.memRead16 (s.reg pcIx))) <;>
    simp only [takeExt, takeWord, h2, Bool.false_eq_true, if_true, if_false, State.fetchExt_false, State.fetchExt_true,
      State.fetchWord_fst, State.fetchWord_snd, State.memRead16_setReg, State.reg_setReg_same, hh, e22, e42] <;>
    intro h <;> cases h <;> rfl

/-- Before the fetch: the state itself, or the state after interrupt entry (R300). -/
theorem State.beginCycle_cases :
    (s.irqPending = false ∧ s.beginCycle = s) ∨ (s.irqPending = true ∧ s.beginCycle = s.interruptEntry) := by
  unfold State.beginCycle
  cases s.irqPending <;> simp

/-- After the execute phase: the peripheral steps, and the tick one higher (R300). -/
theorem State.endCycle_eq : s.endCycle = s.peripheralSteps.setTick (s.tick + 1#32) := by
  simp [State.endCycle, (PeripheralFrame.peripheralSteps s).tick]

/-- A step either leaves a halted machine as it is, or executes the fetched instruction between the two parts of the
cycle (R300). -/
theorem step_cases {s t : State} (h : step s = .next t) :
    (s.halted = true ∧ t = s) ∨
      (s.halted = false ∧ ∃ u, exec s.beginCycle.fetchDecode.1 s.beginCycle.fetchDecode.2 = .next u ∧ t = u.endCycle) := by
  unfold step at h
  split at h
  · next hs => cases h; exact .inl ⟨hs, rfl⟩
  · next hs =>
    dsimp only at h
    cases he : exec s.beginCycle.fetchDecode.1 s.beginCycle.fetchDecode.2 with
    | next u => rw [he] at h; cases h; exact .inr ⟨by simpa using hs, u, rfl, rfl⟩
    | fault f => rw [he] at h; cases h
    | refused r => rw [he] at h; cases h

end Sys2Proof.Machine
end

