-- ==== Sys2Proof/Laws/Flags.lean ====
section
/-! SUPPORT. The result and the flags of each arithmetic, logic and shift operation, in plain arithmetic. -/

namespace Sys2Proof.Machine

theorem msb_eq_bit15 (a : Word) : a.msb = a.getLsbD 15 := by simp [BitVec.msb_eq_getLsbD_last]

@[simp] theorem resultWith_value (r : Word) (c v : Bool) : (resultWith r c v).value = r := rfl

@[simp] theorem resultWith_flags (r : Word) (c v : Bool) : (resultWith r c v).flags = flagsOf r c v := by
  simp [resultWith, flagsOf, msb_eq_bit15, beq_eq_decide]

theorem ofNat_toNat_add (a b : Word) : BitVec.ofNat 16 (a.toNat + b.toNat) = a + b := by
  apply BitVec.eq_of_toNat_eq; simp

theorem ofInt_toNat_sub (a b : Word) : BitVec.ofInt 16 ((a.toNat : Int) - b.toNat) = a - b := by
  apply BitVec.eq_of_toInt_eq
  rw [BitVec.toInt_ofInt, BitVec.toInt_sub, BitVec.toInt_eq_toNat_bmod, BitVec.toInt_eq_toNat_bmod]
  simp

theorem ofNat_toNat_mul (a b : Word) : BitVec.ofNat 16 (a.toNat * b.toNat) = a * b := by
  apply BitVec.eq_of_toNat_eq; simp

@[simp] theorem addOp_value (a b : Word) : (addOp a b).value = a + b := ofNat_toNat_add a b

@[simp] theorem addOp_flags (a b : Word) : (addOp a b).flags = addFlags a b := by
  simp only [addOp, resultWith_flags, ofNat_toNat_add, addFlags, msb_eq_bit15]
  congr 1
  cases a.getLsbD 15 <;> cases b.getLsbD 15 <;> cases (a + b).getLsbD 15 <;> rfl

@[simp] theorem subOp_value (a b : Word) : (subOp a b).value = a - b := ofInt_toNat_sub a b

@[simp] theorem subOp_flags (a b : Word) : (subOp a b).flags = subFlags a b := by
  simp only [subOp, resultWith_flags, ofInt_toNat_sub, subFlags, msb_eq_bit15]
  congr 1
  cases a.getLsbD 15 <;> cases b.getLsbD 15 <;> cases (a - b).getLsbD 15 <;> rfl

@[simp] theorem logicOp_value (r : Word) : (logicOp r).value = r := rfl

@[simp] theorem logicOp_flags (r : Word) : (logicOp r).flags = flagsOf r false false := resultWith_flags _ _ _

@[simp] theorem mulOp_value (a b : Word) : (mulOp a b).value = a * b := ofNat_toNat_mul a b

@[simp] theorem mulOp_flags (a b : Word) :
    (mulOp a b).flags = flagsOf (a * b) (decide (0xFFFF < a.toNat * b.toNat)) false := by
  simp only [mulOp, resultWith_flags, ofNat_toNat_mul]

/-- A zero divisor gives no result (R144). -/
@[simp] theorem divOp_zero (a : Word) : divOp a 0#16 = none := by simp [divOp]

@[simp] theorem modOp_zero (a : Word) : modOp a 0#16 = none := by simp [modOp]

theorem divOp_of_ne {b : Word} (h : b ≠ 0) (a : Word) :
    divOp a b = some { value := a / b, flags := flagsOf (a / b) false false } := by
  have e : BitVec.ofNat 16 (a.toNat / b.toNat) = a / b := by
    apply BitVec.eq_of_toNat_eq
    rw [BitVec.toNat_ofNat, BitVec.toNat_udiv]
    exact Nat.mod_eq_of_lt (Nat.lt_of_le_of_lt (Nat.div_le_self _ _) a.isLt)
  rw [divOp, if_neg h, e, ← resultWith_flags, ← resultWith_value (a / b) false false]
  rfl

theorem modOp_of_ne {b : Word} (h : b ≠ 0) (a : Word) :
    modOp a b = some { value := a % b, flags := flagsOf (a % b) false false } := by
  have e : BitVec.ofNat 16 (a.toNat % b.toNat) = a % b := by
    apply BitVec.eq_of_toNat_eq
    rw [BitVec.toNat_ofNat, BitVec.toNat_umod]
    exact Nat.mod_eq_of_lt (Nat.lt_of_le_of_lt (Nat.mod_le _ _) a.isLt)
  rw [modOp, if_neg h, e, ← resultWith_flags, ← resultWith_value (a % b) false false]
  rfl

/-- `ShlOp` as one formula: the value times 2^n, low 16 bits, for every amount (R180). -/
theorem shlOp_eq (v n : Word) :
    shlOp v n = resultWith (BitVec.ofNat 16 (v.toNat * 2 ^ n.toNat))
      (decide (1 ≤ n.toNat ∧ n.toNat ≤ 16) && v.getLsbD (16 - n.toNat)) false := by
  have key : ∀ k, v <<< k = BitVec.ofNat 16 (v.toNat * 2 ^ k) := fun k => by
    apply BitVec.eq_of_toNat_eq
    simp [Nat.shiftLeft_eq]
  unfold shlOp
  dsimp only
  split
  · next h => simp [h]
  · split
    · next h => rw [key]; simp [h, show 1 ≤ n.toNat by omega]
    · next h => rw [← key, BitVec.shiftLeft_eq_zero (by omega : 16 ≤ n.toNat)]; simp [h]

/-- `ShrOp` as one formula: the unsigned quotient by 2^n for every amount (R181). -/
theorem shrOp_eq (v n : Word) :
    shrOp v n = resultWith (BitVec.ofNat 16 (v.toNat / 2 ^ n.toNat))
      (decide (1 ≤ n.toNat ∧ n.toNat ≤ 16) && v.getLsbD (n.toNat - 1)) false := by
  have key : ∀ k, v >>> k = BitVec.ofNat 16 (v.toNat / 2 ^ k) := fun k => by
    apply BitVec.eq_of_toNat_eq
    simp only [BitVec.toNat_ushiftRight, Nat.shiftRight_eq_div_pow, BitVec.toNat_ofNat]
    exact (Nat.mod_eq_of_lt (Nat.lt_of_le_of_lt (Nat.div_le_self _ _) v.isLt)).symm
  unfold shrOp
  dsimp only
  split
  · next h => simp [h]
  · split
    · next h => rw [key]; simp [h, show 1 ≤ n.toNat by omega]
    · next h => rw [← key, BitVec.ushiftRight_eq_zero (by omega : 16 ≤ n.toNat)]; simp [h]

/-- `SarOp` as one formula: the floor of the signed quotient by 2^n for every amount (R182). -/
theorem sarOp_eq (v n : Word) :
    sarOp v n = resultWith (BitVec.ofInt 16 (v.toInt / 2 ^ n.toNat))
      (decide (1 ≤ n.toNat) && v.getLsbD (min (n.toNat - 1) 15)) false := by
  have key : ∀ k, v.sshiftRight k = BitVec.ofInt 16 (v.toInt / 2 ^ k) := fun k => by
    rw [BitVec.sshiftRight, Int.shiftRight_eq_div_pow]
    norm_cast
  unfold sarOp
  dsimp only
  split
  · next h => simp [h]
  · split
    · rw [key]
      simp [show 1 ≤ n.toNat by omega, show min (n.toNat - 1) 15 = n.toNat - 1 by omega]
    · rw [← key]
      simp only [show 1 ≤ n.toNat by omega, show min (n.toNat - 1) 15 = 15 by omega, ← msb_eq_bit15, decide_true,
        Bool.true_and]
      congr 1
      ext i hi
      rw [BitVec.getElem_sshiftRight]
      simp only [show ¬ n.toNat + i < 16 by omega, dite_false]
      cases v.msb <;> simp
      revert i
      decide

/-- An immediate shift amount is its field (R94). -/
@[simp] theorem toNat_shiftImm (n : BitVec 4) : (shiftImm n).toNat = n.toNat := by
  simp [shiftImm]
  omega

end Sys2Proof.Machine
end

