-- ==== Sys2Proof/Laws/Operands.lean ====
section
/-! SUPPORT. What the shared operand forms and result placements of Machine/Operands.lean can do, said once each, and what a
list of words decodes to. -/

namespace Sys2Proof.Machine

/-! ## Decoding whole instructions -/

theorem decodesTo_one {w : Word} {i : Instr} (hi : hasImm (classOf w) (tOf w) = false)
    (ha : hasAddr (classOf w) (tOf w) = false) (h : decodeWords w 0 0 = i) : DecodesTo [w] i :=
  fun rest => by rw [decodeBytes_one hi ha, h]

theorem decodesTo_imm {w imm : Word} {i : Instr} (hi : hasImm (classOf w) (tOf w) = true)
    (ha : hasAddr (classOf w) (tOf w) = false) (h : decodeWords w imm 0 = i) : DecodesTo [w, imm] i :=
  fun rest => by rw [decodeBytes_imm _ hi ha, h]

theorem decodesTo_addr {w ext : Word} {i : Instr} (hi : hasImm (classOf w) (tOf w) = false)
    (ha : hasAddr (classOf w) (tOf w) = true) (h : decodeWords w 0 ext = i) : DecodesTo [w, ext] i :=
  fun rest => by rw [decodeBytes_addr _ hi ha, h]

theorem decodesTo_imm_addr {w imm ext : Word} {i : Instr} (hi : hasImm (classOf w) (tOf w) = true)
    (ha : hasAddr (classOf w) (tOf w) = true) (h : decodeWords w imm ext = i) : DecodesTo [w, imm, ext] i :=
  fun rest => by rw [decodeBytes_imm_addr _ _ hi ha, h]

/-! ## Where results go -/

variable (s : State)

/-- Writing one register changes that register alone (R19). -/
theorem State.setReg_spec (x : RegIx) (v : Word) : (s.setReg x v).reg x = v ∧ OnlyRegs [x] s (s.setReg x v) :=
  ⟨by simp, fun r hr => by simp [show r ≠ x by simpa using hr], rfl, fun _ _ => rfl, ⟨rfl, rfl, rfl, rfl, rfl⟩,
    fun l => by simp, fun _ => rfl⟩

/-- A result placed in a register changes that register and FLAGS alone. -/
theorem State.putReg_spec (x : RegIx) (r : AluResult) :
    (s.putReg x r).reg x = r.value ∧ (s.putReg x r).flags = r.flags ∧ OnlyRegsAndFlags [x] s (s.putReg x r) :=
  ⟨by simp [State.putReg], by simp [State.putReg], fun r hr => by simp [State.putReg, show r ≠ x by simpa using hr],
    fun _ _ => rfl, ⟨rfl, rfl, rfl, rfl, rfl⟩, fun l => by simp [State.putReg], fun _ => rfl⟩

/-- A result placed in ACC changes ACC and FLAGS alone (R145). -/
theorem State.putAcc_spec (r : AluResult) :
    (s.putAcc r).reg accIx = r.value ∧ (s.putAcc r).flags = r.flags ∧ OnlyRegsAndFlags [accIx] s (s.putAcc r) :=
  s.putReg_spec accIx r

/-- Placing only the flags changes FLAGS alone (R145). -/
theorem State.putFlags_spec (r : AluResult) :
    (s.putFlags r).flags = r.flags ∧ OnlyRegsAndFlags [] s (s.putFlags r) :=
  ⟨rfl, fun _ _ => rfl, fun _ _ => rfl, ⟨rfl, rfl, rfl, rfl, rfl⟩, fun l => by simp [State.putFlags], fun _ => rfl⟩

/-! ## Stores -/

/-- A byte write stores its byte where it can be written, and nothing else (R63). -/
theorem State.memWrite8_spec (a : Word) (v : Byte) :
    ByteStored s (s.memWrite8 a v) a v ∧ OnlyRegsAndBytes [] [a] s (s.memWrite8 a v) := by
  refine ⟨by simp [ByteStored, State.memRead8_memWrite8], fun r _ => by simp, by simp, fun p r => by simp,
    by simp [SameHidden], fun l hl => ?_, fun b hb => ?_⟩
  · simp [State.byteAt_memWrite8, hl a (by simp)]
  · simp [State.memRead8_memWrite8, hb a (by simp)]

/-- A word stored where both bytes can be written reads back (R64, R65). -/
theorem WordStored.memRead16 {s t : State} {a v : Word} (h : WordStored s t a v) (h0 : s.canWrite a = true)
    (h1 : s.canWrite (a + 1#16) = true) : t.memRead16 a = v := by
  unfold State.memRead16
  rw [h.1, h.2, if_pos h0, if_pos h1]
  exact wordOf_bytes v

/-! ## Jumps and calls -/

/-- A jump changes PC alone, and only if its condition holds (R232). -/
theorem State.jumpIf_spec (c : Cond) (v : Word) :
    (s.jumpIf c v).reg pcIx = (if condHolds c s.flags then v else s.reg pcIx) ∧ OnlyRegs [pcIx] s (s.jumpIf c v) := by
  unfold State.jumpIf
  cases condHolds c s.flags
  · exact ⟨rfl, fun _ _ => rfl, rfl, fun _ _ => rfl, ⟨rfl, rfl, rfl, rfl, rfl⟩, fun _ => rfl, fun _ => rfl⟩
  · exact s.setReg_spec pcIx v

/-- A call whose condition fails changes nothing (R234). -/
theorem State.callIf_of_not {c : Cond} (h : condHolds c s.flags = false) (v : Word) : s.callIf c v = s := by
  simp [State.callIf, h]

/-- A call whose condition holds pushes PC, and changes PC, SP and the pushed cell alone (R234, R220). -/
theorem State.callIf_spec {c : Cond} (h : condHolds c s.flags = true) (v : Word) :
    (s.callIf c v).reg pcIx = v ∧ (s.callIf c v).reg spIx = s.reg spIx - 2#16 ∧
      WordStored s (s.callIf c v) (s.reg spIx - 2#16) (s.reg pcIx) ∧
      OnlyRegsAndBytes [pcIx, spIx] [s.reg spIx - 2#16, s.reg spIx - 2#16 + 1#16] s (s.callIf c v) := by
  obtain ⟨hsp, hst, hregs, -, -, -, hbytes, hreads⟩ := s.push16_spec (s.reg pcIx)
  have hc : s.callIf c v = (s.push16 (s.reg pcIx)).setReg pcIx v := by simp [State.callIf, h]
  rw [hc]
  refine ⟨by simp, by simpa using hsp, by simpa [WordStored, ByteStored] using hst, fun r hr => ?_, by simp,
    fun p r => by simp, by simp [SameHidden], fun l hl => ?_, fun b hb => by simpa using hreads b hb⟩
  · simp only [List.mem_cons, List.not_mem_nil, or_false, not_or] at hr
    simpa [hr.1] using hregs r (by simpa using hr.2)
  · simpa using hbytes l hl

end Sys2Proof.Machine
end

