-- ==== Sys2Proof/Laws/PerInstr.lean ====
section
/-! SUPPORT. One lemma per instruction: the encoding of a well-formed instruction has as many words as the extension-word
table (R95) gives its first word. -/

-- One thread at a time: a hundred small proofs in flight at once would reserve more stack than the check allows.
set_option Elab.async false

namespace Sys2Proof.Laws

/-- The encoding is the instruction word and exactly the extension words its (class, t) takes (R95, R97). -/
def WordCount.Statement (i : Instr) : Prop :=
  i.wf = true → i.encode.length = 1 + extWords (i.encode.headD 0)

theorem WordCount.nop : WordCount.Statement (.nop) := fun _ => by decide

theorem WordCount.halt : WordCount.Statement (.halt) := fun _ => by decide

theorem WordCount.ret : WordCount.Statement (.ret) := fun _ => by decide

theorem WordCount.reti : WordCount.Statement (.reti) := fun _ => by decide

theorem WordCount.mov (x : RegIx) (y : RegIx) : WordCount.Statement (.mov x y) := fun _ => by
  simp [Instr.encode, extWords, hasImm, hasAddr]

theorem WordCount.movi (x : RegIx) (imm : Word) : WordCount.Statement (.movi x imm) := fun _ => by
  simp [Instr.encode, extWords, hasImm, hasAddr]

theorem WordCount.add (x : RegIx) (y : RegIx) : WordCount.Statement (.add x y) := fun _ => by
  simp [Instr.encode, extWords, hasImm, hasAddr]

theorem WordCount.sub (x : RegIx) (y : RegIx) : WordCount.Statement (.sub x y) := fun _ => by
  simp [Instr.encode, extWords, hasImm, hasAddr]

theorem WordCount.mul (x : RegIx) (y : RegIx) : WordCount.Statement (.mul x y) := fun _ => by
  simp [Instr.encode, extWords, hasImm, hasAddr]

theorem WordCount.div (x : RegIx) (y : RegIx) : WordCount.Statement (.div x y) := fun _ => by
  simp [Instr.encode, extWords, hasImm, hasAddr]

theorem WordCount.mod (x : RegIx) (y : RegIx) : WordCount.Statement (.mod x y) := fun _ => by
  simp [Instr.encode, extWords, hasImm, hasAddr]

theorem WordCount.and (x : RegIx) (y : RegIx) : WordCount.Statement (.and x y) := fun _ => by
  simp [Instr.encode, extWords, hasImm, hasAddr]

theorem WordCount.or (x : RegIx) (y : RegIx) : WordCount.Statement (.or x y) := fun _ => by
  simp [Instr.encode, extWords, hasImm, hasAddr]

theorem WordCount.xor (x : RegIx) (y : RegIx) : WordCount.Statement (.xor x y) := fun _ => by
  simp [Instr.encode, extWords, hasImm, hasAddr]

theorem WordCount.cmp (x : RegIx) (y : RegIx) : WordCount.Statement (.cmp x y) := fun _ => by
  simp [Instr.encode, extWords, hasImm, hasAddr]

theorem WordCount.tst (x : RegIx) (y : RegIx) : WordCount.Statement (.tst x y) := fun _ => by
  simp [Instr.encode, extWords, hasImm, hasAddr]

theorem WordCount.addi (x : RegIx) (imm : Word) : WordCount.Statement (.addi x imm) := fun _ => by
  simp [Instr.encode, extWords, hasImm, hasAddr]

theorem WordCount.subi (x : RegIx) (imm : Word) : WordCount.Statement (.subi x imm) := fun _ => by
  simp [Instr.encode, extWords, hasImm, hasAddr]

theorem WordCount.muli (x : RegIx) (imm : Word) : WordCount.Statement (.muli x imm) := fun _ => by
  simp [Instr.encode, extWords, hasImm, hasAddr]

theorem WordCount.divi (x : RegIx) (imm : Word) : WordCount.Statement (.divi x imm) := fun _ => by
  simp [Instr.encode, extWords, hasImm, hasAddr]

theorem WordCount.modi (x : RegIx) (imm : Word) : WordCount.Statement (.modi x imm) := fun _ => by
  simp [Instr.encode, extWords, hasImm, hasAddr]

theorem WordCount.andi (x : RegIx) (imm : Word) : WordCount.Statement (.andi x imm) := fun _ => by
  simp [Instr.encode, extWords, hasImm, hasAddr]

theorem WordCount.ori (x : RegIx) (imm : Word) : WordCount.Statement (.ori x imm) := fun _ => by
  simp [Instr.encode, extWords, hasImm, hasAddr]

theorem WordCount.xori (x : RegIx) (imm : Word) : WordCount.Statement (.xori x imm) := fun _ => by
  simp [Instr.encode, extWords, hasImm, hasAddr]

theorem WordCount.cmpi (x : RegIx) (imm : Word) : WordCount.Statement (.cmpi x imm) := fun _ => by
  simp [Instr.encode, extWords, hasImm, hasAddr]

theorem WordCount.tsti (x : RegIx) (imm : Word) : WordCount.Statement (.tsti x imm) := fun _ => by
  simp [Instr.encode, extWords, hasImm, hasAddr]

theorem WordCount.inc (x : RegIx) : WordCount.Statement (.inc x) := fun _ => by
  simp [Instr.encode, extWords, hasImm, hasAddr]

theorem WordCount.dec (x : RegIx) : WordCount.Statement (.dec x) := fun _ => by
  simp [Instr.encode, extWords, hasImm, hasAddr]

theorem WordCount.not (x : RegIx) : WordCount.Statement (.not x) := fun _ => by
  simp [Instr.encode, extWords, hasImm, hasAddr]

theorem WordCount.neg (x : RegIx) : WordCount.Statement (.neg x) := fun _ => by
  simp [Instr.encode, extWords, hasImm, hasAddr]

theorem WordCount.shl (x : RegIx) (y : RegIx) : WordCount.Statement (.shl x y) := fun _ => by
  simp [Instr.encode, extWords, hasImm, hasAddr]

theorem WordCount.shr (x : RegIx) (y : RegIx) : WordCount.Statement (.shr x y) := fun _ => by
  simp [Instr.encode, extWords, hasImm, hasAddr]

theorem WordCount.sar (x : RegIx) (y : RegIx) : WordCount.Statement (.sar x y) := fun _ => by
  simp [Instr.encode, extWords, hasImm, hasAddr]

theorem WordCount.shli (x : RegIx) (n : BitVec 4) : WordCount.Statement (.shli x n) := fun _ => by
  simp [Instr.encode, extWords, hasImm, hasAddr]

theorem WordCount.shri (x : RegIx) (n : BitVec 4) : WordCount.Statement (.shri x n) := fun _ => by
  simp [Instr.encode, extWords, hasImm, hasAddr]

theorem WordCount.sari (x : RegIx) (n : BitVec 4) : WordCount.Statement (.sari x n) := fun _ => by
  simp [Instr.encode, extWords, hasImm, hasAddr]

theorem WordCount.ld (x : RegIx) (y : RegIx) : WordCount.Statement (.ld x y) := fun _ => by
  simp [Instr.encode, extWords, hasImm, hasAddr]

theorem WordCount.st (x : RegIx) (y : RegIx) : WordCount.Statement (.st x y) := fun _ => by
  simp [Instr.encode, extWords, hasImm, hasAddr]

theorem WordCount.ldb (x : RegIx) (y : RegIx) : WordCount.Statement (.ldb x y) := fun _ => by
  simp [Instr.encode, extWords, hasImm, hasAddr]

theorem WordCount.stb (x : RegIx) (y : RegIx) : WordCount.Statement (.stb x y) := fun _ => by
  simp [Instr.encode, extWords, hasImm, hasAddr]

theorem WordCount.lda (x : RegIx) (ext : Word) : WordCount.Statement (.lda x ext) := fun _ => by
  simp [Instr.encode, extWords, hasImm, hasAddr]

theorem WordCount.sta (x : RegIx) (ext : Word) : WordCount.Statement (.sta x ext) := fun _ => by
  simp [Instr.encode, extWords, hasImm, hasAddr]

theorem WordCount.ldba (x : RegIx) (ext : Word) : WordCount.Statement (.ldba x ext) := fun _ => by
  simp [Instr.encode, extWords, hasImm, hasAddr]

theorem WordCount.stba (x : RegIx) (ext : Word) : WordCount.Statement (.stba x ext) := fun _ => by
  simp [Instr.encode, extWords, hasImm, hasAddr]

theorem WordCount.stia (imm : Word) (ext : Word) : WordCount.Statement (.stia imm ext) := fun _ => by
  simp [Instr.encode, extWords, hasImm, hasAddr]

theorem WordCount.push (x : RegIx) : WordCount.Statement (.push x) := fun _ => by
  simp [Instr.encode, extWords, hasImm, hasAddr]

theorem WordCount.pop (x : RegIx) : WordCount.Statement (.pop x) := fun _ => by
  simp [Instr.encode, extWords, hasImm, hasAddr]

theorem WordCount.pushf : WordCount.Statement (.pushf) := fun _ => by decide

theorem WordCount.popf : WordCount.Statement (.popf) := fun _ => by decide

theorem WordCount.jmpr (x : RegIx) : WordCount.Statement (.jmpr x) := fun _ => by
  simp [Instr.encode, extWords, hasImm, hasAddr]

theorem WordCount.jeqr (x : RegIx) : WordCount.Statement (.jeqr x) := fun _ => by
  simp [Instr.encode, extWords, hasImm, hasAddr]

theorem WordCount.jner (x : RegIx) : WordCount.Statement (.jner x) := fun _ => by
  simp [Instr.encode, extWords, hasImm, hasAddr]

theorem WordCount.jcsr (x : RegIx) : WordCount.Statement (.jcsr x) := fun _ => by
  simp [Instr.encode, extWords, hasImm, hasAddr]

theorem WordCount.jccr (x : RegIx) : WordCount.Statement (.jccr x) := fun _ => by
  simp [Instr.encode, extWords, hasImm, hasAddr]

theorem WordCount.jvsr (x : RegIx) : WordCount.Statement (.jvsr x) := fun _ => by
  simp [Instr.encode, extWords, hasImm, hasAddr]

theorem WordCount.jvcr (x : RegIx) : WordCount.Statement (.jvcr x) := fun _ => by
  simp [Instr.encode, extWords, hasImm, hasAddr]

theorem WordCount.jgtr (x : RegIx) : WordCount.Statement (.jgtr x) := fun _ => by
  simp [Instr.encode, extWords, hasImm, hasAddr]

theorem WordCount.jltr (x : RegIx) : WordCount.Statement (.jltr x) := fun _ => by
  simp [Instr.encode, extWords, hasImm, hasAddr]

theorem WordCount.jger (x : RegIx) : WordCount.Statement (.jger x) := fun _ => by
  simp [Instr.encode, extWords, hasImm, hasAddr]

theorem WordCount.jler (x : RegIx) : WordCount.Statement (.jler x) := fun _ => by
  simp [Instr.encode, extWords, hasImm, hasAddr]

theorem WordCount.jhir (x : RegIx) : WordCount.Statement (.jhir x) := fun _ => by
  simp [Instr.encode, extWords, hasImm, hasAddr]

theorem WordCount.jlsr (x : RegIx) : WordCount.Statement (.jlsr x) := fun _ => by
  simp [Instr.encode, extWords, hasImm, hasAddr]

theorem WordCount.jmir (x : RegIx) : WordCount.Statement (.jmir x) := fun _ => by
  simp [Instr.encode, extWords, hasImm, hasAddr]

theorem WordCount.jplr (x : RegIx) : WordCount.Statement (.jplr x) := fun _ => by
  simp [Instr.encode, extWords, hasImm, hasAddr]

theorem WordCount.jnvr (x : RegIx) : WordCount.Statement (.jnvr x) := fun _ => by
  simp [Instr.encode, extWords, hasImm, hasAddr]

theorem WordCount.jmp (ext : Word) : WordCount.Statement (.jmp ext) := fun _ => by
  simp [Instr.encode, extWords, hasImm, hasAddr]

theorem WordCount.jeq (ext : Word) : WordCount.Statement (.jeq ext) := fun _ => by
  simp [Instr.encode, extWords, hasImm, hasAddr]

theorem WordCount.jne (ext : Word) : WordCount.Statement (.jne ext) := fun _ => by
  simp [Instr.encode, extWords, hasImm, hasAddr]

theorem WordCount.jcs (ext : Word) : WordCount.Statement (.jcs ext) := fun _ => by
  simp [Instr.encode, extWords, hasImm, hasAddr]

theorem WordCount.jcc (ext : Word) : WordCount.Statement (.jcc ext) := fun _ => by
  simp [Instr.encode, extWords, hasImm, hasAddr]

theorem WordCount.jvs (ext : Word) : WordCount.Statement (.jvs ext) := fun _ => by
  simp [Instr.encode, extWords, hasImm, hasAddr]

theorem WordCount.jvc (ext : Word) : WordCount.Statement (.jvc ext) := fun _ => by
  simp [Instr.encode, extWords, hasImm, hasAddr]

theorem WordCount.jgt (ext : Word) : WordCount.Statement (.jgt ext) := fun _ => by
  simp [Instr.encode, extWords, hasImm, hasAddr]

theorem WordCount.jlt (ext : Word) : WordCount.Statement (.jlt ext) := fun _ => by
  simp [Instr.encode, extWords, hasImm, hasAddr]

theorem WordCount.jge (ext : Word) : WordCount.Statement (.jge ext) := fun _ => by
  simp [Instr.encode, extWords, hasImm, hasAddr]

theorem WordCount.jle (ext : Word) : WordCount.Statement (.jle ext) := fun _ => by
  simp [Instr.encode, extWords, hasImm, hasAddr]

theorem WordCount.jhi (ext : Word) : WordCount.Statement (.jhi ext) := fun _ => by
  simp [Instr.encode, extWords, hasImm, hasAddr]

theorem WordCount.jls (ext : Word) : WordCount.Statement (.jls ext) := fun _ => by
  simp [Instr.encode, extWords, hasImm, hasAddr]

theorem WordCount.jmi (ext : Word) : WordCount.Statement (.jmi ext) := fun _ => by
  simp [Instr.encode, extWords, hasImm, hasAddr]

theorem WordCount.jpl (ext : Word) : WordCount.Statement (.jpl ext) := fun _ => by
  simp [Instr.encode, extWords, hasImm, hasAddr]

theorem WordCount.jnv (ext : Word) : WordCount.Statement (.jnv ext) := fun _ => by
  simp [Instr.encode, extWords, hasImm, hasAddr]

theorem WordCount.callr (x : RegIx) : WordCount.Statement (.callr x) := fun _ => by
  simp [Instr.encode, extWords, hasImm, hasAddr]

theorem WordCount.calleqr (x : RegIx) : WordCount.Statement (.calleqr x) := fun _ => by
  simp [Instr.encode, extWords, hasImm, hasAddr]

theorem WordCount.callner (x : RegIx) : WordCount.Statement (.callner x) := fun _ => by
  simp [Instr.encode, extWords, hasImm, hasAddr]

theorem WordCount.callcsr (x : RegIx) : WordCount.Statement (.callcsr x) := fun _ => by
  simp [Instr.encode, extWords, hasImm, hasAddr]

theorem WordCount.callccr (x : RegIx) : WordCount.Statement (.callccr x) := fun _ => by
  simp [Instr.encode, extWords, hasImm, hasAddr]

theorem WordCount.callvsr (x : RegIx) : WordCount.Statement (.callvsr x) := fun _ => by
  simp [Instr.encode, extWords, hasImm, hasAddr]

theorem WordCount.callvcr (x : RegIx) : WordCount.Statement (.callvcr x) := fun _ => by
  simp [Instr.encode, extWords, hasImm, hasAddr]

theorem WordCount.callgtr (x : RegIx) : WordCount.Statement (.callgtr x) := fun _ => by
  simp [Instr.encode, extWords, hasImm, hasAddr]

theorem WordCount.callltr (x : RegIx) : WordCount.Statement (.callltr x) := fun _ => by
  simp [Instr.encode, extWords, hasImm, hasAddr]

theorem WordCount.callger (x : RegIx) : WordCount.Statement (.callger x) := fun _ => by
  simp [Instr.encode, extWords, hasImm, hasAddr]

theorem WordCount.calller (x : RegIx) : WordCount.Statement (.calller x) := fun _ => by
  simp [Instr.encode, extWords, hasImm, hasAddr]

theorem WordCount.callhir (x : RegIx) : WordCount.Statement (.callhir x) := fun _ => by
  simp [Instr.encode, extWords, hasImm, hasAddr]

theorem WordCount.calllsr (x : RegIx) : WordCount.Statement (.calllsr x) := fun _ => by
  simp [Instr.encode, extWords, hasImm, hasAddr]

theorem WordCount.callmir (x : RegIx) : WordCount.Statement (.callmir x) := fun _ => by
  simp [Instr.encode, extWords, hasImm, hasAddr]

theorem WordCount.callplr (x : RegIx) : WordCount.Statement (.callplr x) := fun _ => by
  simp [Instr.encode, extWords, hasImm, hasAddr]

theorem WordCount.callnvr (x : RegIx) : WordCount.Statement (.callnvr x) := fun _ => by
  simp [Instr.encode, extWords, hasImm, hasAddr]

theorem WordCount.call (ext : Word) : WordCount.Statement (.call ext) := fun _ => by
  simp [Instr.encode, extWords, hasImm, hasAddr]

theorem WordCount.calleq (ext : Word) : WordCount.Statement (.calleq ext) := fun _ => by
  simp [Instr.encode, extWords, hasImm, hasAddr]

theorem WordCount.callne (ext : Word) : WordCount.Statement (.callne ext) := fun _ => by
  simp [Instr.encode, extWords, hasImm, hasAddr]

theorem WordCount.callcs (ext : Word) : WordCount.Statement (.callcs ext) := fun _ => by
  simp [Instr.encode, extWords, hasImm, hasAddr]

theorem WordCount.callcc (ext : Word) : WordCount.Statement (.callcc ext) := fun _ => by
  simp [Instr.encode, extWords, hasImm, hasAddr]

theorem WordCount.callvs (ext : Word) : WordCount.Statement (.callvs ext) := fun _ => by
  simp [Instr.encode, extWords, hasImm, hasAddr]

theorem WordCount.callvc (ext : Word) : WordCount.Statement (.callvc ext) := fun _ => by
  simp [Instr.encode, extWords, hasImm, hasAddr]

theorem WordCount.callgt (ext : Word) : WordCount.Statement (.callgt ext) := fun _ => by
  simp [Instr.encode, extWords, hasImm, hasAddr]

theorem WordCount.calllt (ext : Word) : WordCount.Statement (.calllt ext) := fun _ => by
  simp [Instr.encode, extWords, hasImm, hasAddr]

theorem WordCount.callge (ext : Word) : WordCount.Statement (.callge ext) := fun _ => by
  simp [Instr.encode, extWords, hasImm, hasAddr]

theorem WordCount.callle (ext : Word) : WordCount.Statement (.callle ext) := fun _ => by
  simp [Instr.encode, extWords, hasImm, hasAddr]

theorem WordCount.callhi (ext : Word) : WordCount.Statement (.callhi ext) := fun _ => by
  simp [Instr.encode, extWords, hasImm, hasAddr]

theorem WordCount.callls (ext : Word) : WordCount.Statement (.callls ext) := fun _ => by
  simp [Instr.encode, extWords, hasImm, hasAddr]

theorem WordCount.callmi (ext : Word) : WordCount.Statement (.callmi ext) := fun _ => by
  simp [Instr.encode, extWords, hasImm, hasAddr]

theorem WordCount.callpl (ext : Word) : WordCount.Statement (.callpl ext) := fun _ => by
  simp [Instr.encode, extWords, hasImm, hasAddr]

theorem WordCount.callnv (ext : Word) : WordCount.Statement (.callnv ext) := fun _ => by
  simp [Instr.encode, extWords, hasImm, hasAddr]

theorem WordCount.ioIn (x : RegIx) (p : IoIx) (r : IoIx) : WordCount.Statement (.ioIn x p r) := fun _ => by
  simp [Instr.encode, extWords, hasImm, hasAddr]

theorem WordCount.ioOut (x : RegIx) (p : IoIx) (r : IoIx) : WordCount.Statement (.ioOut x p r) := fun _ => by
  simp [Instr.encode, extWords, hasImm, hasAddr]

/-- The class of a class-0 word. -/
theorem classOf_low (low : BitVec 12) : classOf (0#4 ++ low) = 0#4 := by
  have h : ∀ i, (0#4 ++ low : Word).getLsbD i = (0#4 ++ low : BitVec (4 + 12)).getLsbD i := fun _ => rfl
  ext i hi
  simp only [classOf, BitVec.getElem_extractLsb', h]
  rw [BitVec.getLsbD_append]
  simp

theorem WordCount.undefSystem (low : BitVec 12) : WordCount.Statement (.undefSystem low) := fun _ => by
  simp [Instr.encode, extWords, show classOf (0#4 ++ low) = 0#4 from classOf_low low, hasImm, hasAddr]

theorem WordCount.undefMove (t : BitVec 4) : WordCount.Statement (.undefMove t) := by
  unfold WordCount.Statement; revert t; decide

theorem WordCount.undefAlu (t : BitVec 4) : WordCount.Statement (.undefAlu t) := by
  unfold WordCount.Statement; revert t; decide

theorem WordCount.undefAluImm (t : BitVec 4) : WordCount.Statement (.undefAluImm t) := by
  unfold WordCount.Statement; revert t; decide

theorem WordCount.undefUnary (t : BitVec 4) : WordCount.Statement (.undefUnary t) := by
  unfold WordCount.Statement; revert t; decide

theorem WordCount.undefLoadStore (t : BitVec 4) : WordCount.Statement (.undefLoadStore t) := by
  unfold WordCount.Statement; revert t; decide

theorem WordCount.undefStack (t : BitVec 4) : WordCount.Statement (.undefStack t) := by
  unfold WordCount.Statement; revert t; decide

theorem WordCount.undefClassD : WordCount.Statement (.undefClassD) := fun _ => by decide

theorem WordCount.undefClassE : WordCount.Statement (.undefClassE) := fun _ => by decide

theorem WordCount.undefClassF : WordCount.Statement (.undefClassF) := fun _ => by decide

end Sys2Proof.Laws
end

