-- ==== Sys2Proof/Tests/Slice0.lean ====
section
/-! SUPPORT. The model's own tests: what the well-formedness check refuses, words written out from the encoding tables, one-step
vectors of the spec (95_test_vectors.md, the section is named at each), and a witness for the hypotheses of each statement. -/

-- One thread at a time: many small kernel evaluations in flight at once would reserve more stack than the check allows.
set_option Elab.async false
-- A state's registers are two hundred and seventy-two vector entries deep.
set_option maxRecDepth 8000

namespace Sys2Proof.Tests

open Sys2Proof.Machine

/-! ## The well-formedness check refuses what no word decodes to (R99, R100, R103) -/

theorem test_wf_refuses_undefSystem_of_reti : (Instr.undefSystem 3).wf = false := by decide
theorem test_wf_refuses_undefMove_of_movi : (Instr.undefMove 1).wf = false := by decide
theorem test_wf_refuses_undefAlu_of_tst : (Instr.undefAlu 9).wf = false := by decide
theorem test_wf_refuses_undefAluImm_of_tsti : (Instr.undefAluImm 9).wf = false := by decide
theorem test_wf_refuses_undefUnary_of_sari : (Instr.undefUnary 9).wf = false := by decide
theorem test_wf_refuses_undefLoadStore_of_stia : (Instr.undefLoadStore 8).wf = false := by decide
theorem test_wf_refuses_undefStack_of_popf : (Instr.undefStack 3).wf = false := by decide

theorem test_wf_accepts_the_lowest_undefined :
    [Instr.undefSystem 4, .undefMove 2, .undefAlu 10, .undefAluImm 10, .undefUnary 10, .undefLoadStore 9, .undefStack 4].all
      Instr.wf = true := by decide

/-! ## Decoding words written out from R98 to R101, every constructor -/

/-- The one instruction that a list of words is, if it is one. -/
def whole (ws : List Word) : Option Instr :=
  match decodeBytes (wordBytes ws) with
  | .ok (i, []) => some i
  | _ => none

/-- Class 0 (R99). -/
theorem test_decode_system :
    [[0x0000], [0x0001], [0x0002], [0x0003], [0x0004], [0x0ABC], [0x0FFF]].map whole =
    [some .nop, some .halt, some .ret, some .reti, some (.undefSystem 0x004), some (.undefSystem 0xABC),
     some (.undefSystem 0xFFF)] := by decide

/-- Class 1 (R100, R131). -/
theorem test_decode_move :
    [[0x1012], [0x10F3], [0x1100, 0x0005], [0x11E0, 0x9000], [0x1200], [0x1F34]].map whole =
    [some (.mov 1 2), some (.mov 15 3), some (.movi 0 5), some (.movi 14 0x9000), some (.undefMove 2),
     some (.undefMove 15)] := by decide

/-- Class 2 (R100). -/
theorem test_decode_alu :
    [[0x2012], [0x2113], [0x2214], [0x2315], [0x2416], [0x2517], [0x2618], [0x2719], [0x281A], [0x291B],
     [0x2A12], [0x2F12]].map whole =
    [some (.add 1 2), some (.sub 1 3), some (.mul 1 4), some (.div 1 5), some (.mod 1 6), some (.and 1 7),
     some (.or 1 8), some (.xor 1 9), some (.cmp 1 10), some (.tst 1 11), some (.undefAlu 10),
     some (.undefAlu 15)] := by decide

/-- Class 3 (R100); the Y field is ignored (R94). -/
theorem test_decode_aluImm :
    [[0x3037, 0x1105], [0x3147, 0x1105], [0x3257, 0x1105], [0x3367, 0x1105], [0x3477, 0x1105], [0x3587, 0x1105],
     [0x3697, 0x1105], [0x37A7, 0x1105], [0x38B7, 0x1105], [0x39C7, 0x1105], [0x3A00], [0x3F00]].map whole =
    [some (.addi 3 0x1105), some (.subi 4 0x1105), some (.muli 5 0x1105), some (.divi 6 0x1105),
     some (.modi 7 0x1105), some (.andi 8 0x1105), some (.ori 9 0x1105), some (.xori 10 0x1105),
     some (.cmpi 11 0x1105), some (.tsti 12 0x1105), some (.undefAluImm 10), some (.undefAluImm 15)] := by decide

/-- Class 4 (R100). -/
theorem test_decode_unary :
    [[0x4095], [0x41A5], [0x42B5], [0x43C5], [0x445A], [0x455A], [0x465A], [0x475A], [0x485A], [0x495A],
     [0x4A00]].map whole =
    [some (.inc 9), some (.dec 10), some (.not 11), some (.neg 12), some (.shl 5 10), some (.shr 5 10),
     some (.sar 5 10), some (.shli 5 10), some (.shri 5 10), some (.sari 5 10), some (.undefUnary 10)] := by decide

/-- Class 5 (R100); in STIA the immediate comes before the address (R91). -/
theorem test_decode_loadStore :
    [[0x5012], [0x5112], [0x5212], [0x5312], [0x543F, 0x8002], [0x553F, 0x8002], [0x563F, 0x8002],
     [0x573F, 0x8002], [0x5800, 0x1234, 0x8008], [0x5900]].map whole =
    [some (.ld 1 2), some (.st 1 2), some (.ldb 1 2), some (.stb 1 2), some (.lda 3 0x8002),
     some (.sta 3 0x8002), some (.ldba 3 0x8002), some (.stba 3 0x8002), some (.stia 0x1234 0x8008),
     some (.undefLoadStore 9)] := by decide

/-- Class 6 (R100). -/
theorem test_decode_stack :
    [[0x6010], [0x6120], [0x6200], [0x6300], [0x6400]].map whole =
    [some (.push 1), some (.pop 2), some .pushf, some .popf, some (.undefStack 4)] := by decide

/-- Class 7 (R101). -/
theorem test_decode_jumpReg :
    [[0x7050], [0x7150], [0x7250], [0x7350], [0x7450], [0x7550], [0x7650], [0x7750], [0x7850], [0x7950],
     [0x7A50], [0x7B50], [0x7C50], [0x7D50], [0x7E50], [0x7F50]].map whole =
    [some (.jmpr 5), some (.jeqr 5), some (.jner 5), some (.jcsr 5), some (.jccr 5), some (.jvsr 5),
     some (.jvcr 5), some (.jgtr 5), some (.jltr 5), some (.jger 5), some (.jler 5), some (.jhir 5),
     some (.jlsr 5), some (.jmir 5), some (.jplr 5), some (.jnvr 5)] := by decide

/-- Class 8 (R101); bits 19:16 of the address, in Y, are ignored (R93). -/
theorem test_decode_jumpAddr :
    [[0x800F, 0x0100], [0x810F, 0x0100], [0x820F, 0x0100], [0x830F, 0x0100], [0x840F, 0x0100], [0x850F, 0x0100],
     [0x860F, 0x0100], [0x870F, 0x0100], [0x880F, 0x0100], [0x890F, 0x0100], [0x8A0F, 0x0100], [0x8B0F, 0x0100],
     [0x8C0F, 0x0100], [0x8D0F, 0x0100], [0x8E0F, 0x0100], [0x8F0F, 0x0100]].map whole =
    [some (.jmp 0x0100), some (.jeq 0x0100), some (.jne 0x0100), some (.jcs 0x0100), some (.jcc 0x0100),
     some (.jvs 0x0100), some (.jvc 0x0100), some (.jgt 0x0100), some (.jlt 0x0100), some (.jge 0x0100),
     some (.jle 0x0100), some (.jhi 0x0100), some (.jls 0x0100), some (.jmi 0x0100), some (.jpl 0x0100),
     some (.jnv 0x0100)] := by decide

/-- Class 9 (R101). -/
theorem test_decode_callReg :
    [[0x9050], [0x9150], [0x9250], [0x9350], [0x9450], [0x9550], [0x9650], [0x9750], [0x9850], [0x9950],
     [0x9A50], [0x9B50], [0x9C50], [0x9D50], [0x9E50], [0x9F50]].map whole =
    [some (.callr 5), some (.calleqr 5), some (.callner 5), some (.callcsr 5), some (.callccr 5),
     some (.callvsr 5), some (.callvcr 5), some (.callgtr 5), some (.callltr 5), some (.callger 5),
     some (.calller 5), some (.callhir 5), some (.calllsr 5), some (.callmir 5), some (.callplr 5),
     some (.callnvr 5)] := by decide

/-- Class A (R101); bits 19:16 of the address, in Y, are ignored (R93). -/
theorem test_decode_callAddr :
    [[0xA00F, 0x0100], [0xA10F, 0x0100], [0xA20F, 0x0100], [0xA30F, 0x0100], [0xA40F, 0x0100], [0xA50F, 0x0100],
     [0xA60F, 0x0100], [0xA70F, 0x0100], [0xA80F, 0x0100], [0xA90F, 0x0100], [0xAA0F, 0x0100], [0xAB0F, 0x0100],
     [0xAC0F, 0x0100], [0xAD0F, 0x0100], [0xAE0F, 0x0100], [0xAF0F, 0x0100]].map whole =
    [some (.call 0x0100), some (.calleq 0x0100), some (.callne 0x0100), some (.callcs 0x0100),
     some (.callcc 0x0100), some (.callvs 0x0100), some (.callvc 0x0100), some (.callgt 0x0100),
     some (.calllt 0x0100), some (.callge 0x0100), some (.callle 0x0100), some (.callhi 0x0100),
     some (.callls 0x0100), some (.callmi 0x0100), some (.callpl 0x0100), some (.callnv 0x0100)] := by decide

/-- Classes B and C: port in t, register in X, index in Y (R94). -/
theorem test_decode_io :
    [[0xB811], [0xB724], [0xC011], [0xC814]].map whole =
    [some (.ioIn 1 8 1), some (.ioIn 2 7 4), some (.ioOut 1 0 1), some (.ioOut 1 8 4)] := by decide

/-- Classes D, E, F (R103). -/
theorem test_decode_undefined_classes :
    [[0xD123], [0xE000], [0xFFFF]].map whole =
    [some .undefClassD, some .undefClassE, some .undefClassF] := by decide

/-- 95_test_vectors.md 2.1: the word after an undefined class-3 word is not consumed. -/
theorem test_decode_does_not_consume_data :
    decodeBytes [0x00, 0x3A, 0x05, 0x11] = .ok (.undefAluImm 10, [0x05, 0x11]) := by decide

/-- A list shorter than its instruction is rejected by name. -/
theorem test_decode_rejects_a_truncated_list :
    decodeBytes [0x00, 0x11, 0x05] = .error .truncated ∧ decodeBytes [0x00, 0x58, 0x34, 0x12] = .error .truncated := by
  decide

/-- The table's numbering: the second word is bits 31 to 16. -/
theorem test_decodeTableWord : decodeTableWord 32 0x90001100 = some (.movi 0 0x9000) := by decide

/-! ## One step -/

/-- The reset state with its PC at 0x0100 and the words `ws` there in ROM bank 0, prepared by `f`. -/
def start (ws : List Word) (f : State → State) : State :=
  let s := (State.reset.setPc 0x0100).placeBytes 0x0100 (wordBytes ws)
  f s

/-- The state after a step that completes, the state itself otherwise. -/
def after (s : State) : State :=
  match step s with
  | .next t => t
  | _ => s

/-- One cycle of the words `ws` at 0x0100 from the state `f` prepares. -/
def cycle (ws : List Word) (f : State → State) : State := after (start ws f)

/-- A register set. -/
def r (x : RegIx) (v : Word) (s : State) : State := s.setReg x v

/-- FLAGS set from the four bits NZCV. -/
def fl (nzcv : BitVec 4) (s : State) : State := s.setFlags (Flags.ofImage (nzcv.zeroExtend 16))

/-- The word `v` in memory at `a`, low byte first, ROM included. -/
def m (a v : Word) (s : State) : State := s.placeBytes a (wordBytes [v])

/-- One I/O register set. -/
def p (port ix : IoIx) (v : Word) (s : State) : State := s.setIo port ix v

/-- NZCV. -/
def nzcv (s : State) : Word := s.flags.image

/-- 95_test_vectors.md 2.2. -/
theorem test_nop :
    (fun s => (s.reg 15, s.tick, s.halted)) (cycle [0x0000] id) =
      (0x0102#16, 1#32, false) := by decide

/-- 95_test_vectors.md 2.2. -/
theorem test_halt :
    (fun s => (s.reg 15, s.halted)) (cycle [0x0001] id) =
      (0x0100#16, true) := by decide

/-- 95_test_vectors.md 2.2. -/
theorem test_ret :
    (fun s => (s.reg 15, s.reg 14)) (cycle [0x0002] (r 14 0xFFFC ∘ m 0xFFFC 0x0123)) =
      (0x0123#16, 0xFFFE#16) := by decide

/-- 95_test_vectors.md 2.2. -/
theorem test_ret_wraps :
    (fun s => (s.reg 15, s.reg 14)) (cycle [0x0002] (r 14 0xFFFF ∘ fun s => (s.placeByte 0xFFFF 0x34).placeByte 0x0000 0x12)) =
      (0x1234#16, 0x0001#16) := by decide

/-- 95_test_vectors.md 2.2. -/
theorem test_reti :
    (fun s => (nzcv s, s.reg 15, s.reg 14)) (cycle [0x0003] (r 14 0xFFF8 ∘ m 0xFFF8 0x0004 ∘ m 0xFFFA 0x0200)) =
      (0x0004#16, 0x0200#16, 0xFFFC#16) := by decide

/-- 95_test_vectors.md 2.1. -/
theorem test_undefined_class_0 :
    (fun s => (s.reg 15, s.reg 1, nzcv s)) (cycle [0x0ABC] (r 1 0x1234)) =
      (0x0102#16, 0x1234#16, 0x0000#16) := by decide

/-- 95_test_vectors.md 2.1. -/
theorem test_undefined_class_3_takes_no_immediate :
    (fun s => (s.reg 15, s.reg 0)) (cycle [0x3A00, 0x1105] id) =
      (0x0102#16, 0x0000#16) := by decide

/-- 95_test_vectors.md 2.1. -/
theorem test_undefined_class_F :
    (fun s => (s.reg 15)) (cycle [0xFFFF] id) =
      (0x0102#16) := by decide

/-- 95_test_vectors.md 2.3. -/
theorem test_mov :
    (fun s => (s.reg 1, nzcv s)) (cycle [0x1012] (r 2 0x1234 ∘ fl 0b1010)) =
      (0x1234#16, 0x000A#16) := by decide

/-- 95_test_vectors.md 2.3. -/
theorem test_mov_pc :
    (fun s => (s.reg 15)) (cycle [0x10F3] (r 3 0x0200)) =
      (0x0200#16) := by decide

/-- 95_test_vectors.md 2.3. -/
theorem test_movi :
    (fun s => (s.reg 0, s.reg 15)) (cycle [0x1100, 0x0005] id) =
      (0x0005#16, 0x0104#16) := by decide

/-- 95_test_vectors.md 2.3. -/
theorem test_movi_sp :
    (fun s => (s.reg 14)) (cycle [0x11E0, 0x9000] id) =
      (0x9000#16) := by decide

/-- 95_test_vectors.md S1. -/
theorem test_add_carry :
    (fun s => (s.reg 0, nzcv s)) (cycle [0x2012] (r 1 0xFFFF ∘ r 2 0x0001)) =
      (0x0000#16, 0x0006#16) := by decide

/-- 95_test_vectors.md S1. -/
theorem test_add_overflow :
    (fun s => (s.reg 0, nzcv s)) (cycle [0x2012] (r 1 0x7FFF ∘ r 2 0x0001)) =
      (0x8000#16, 0x0009#16) := by decide

/-- 95_test_vectors.md 2.4. -/
theorem test_add_reads_pc_as_next :
    (fun s => (s.reg 0, s.reg 15)) (cycle [0x20FF] id) =
      (0x0204#16, 0x0102#16) := by decide

/-- 95_test_vectors.md 2.4. -/
theorem test_sub :
    (fun s => (s.reg 0, nzcv s)) (cycle [0x2112] (r 1 0x7FFF ∘ r 2 0xFFFF)) =
      (0x8000#16, 0x000B#16) := by decide

/-- 95_test_vectors.md 2.4. -/
theorem test_sub_overflow :
    (fun s => (s.reg 0, nzcv s)) (cycle [0x2112] (r 1 0x8000 ∘ r 2 0x0001)) =
      (0x7FFF#16, 0x0001#16) := by decide

/-- 95_test_vectors.md 2.4. -/
theorem test_mul :
    (fun s => (s.reg 0, nzcv s)) (cycle [0x2212] (r 1 0xFFFF ∘ r 2 0xFFFF)) =
      (0x0001#16, 0x0002#16) := by decide

/-- 95_test_vectors.md 2.4. -/
theorem test_mul_fits :
    (fun s => (s.reg 0, nzcv s)) (cycle [0x2212] (r 1 0x00FF ∘ r 2 0x0101)) =
      (0xFFFF#16, 0x0008#16) := by decide

/-- 95_test_vectors.md 2.4. -/
theorem test_div :
    (fun s => (s.reg 0, nzcv s)) (cycle [0x2312] (r 1 0x8000 ∘ r 2 0x0003)) =
      (0x2AAA#16, 0x0000#16) := by decide

/-- 95_test_vectors.md S3. -/
theorem test_div_by_zero :
    (fun s => (s.reg 0, nzcv s, s.reg 15)) (cycle [0x2312] (r 0 0x4444 ∘ r 1 0x0007 ∘ fl 0b1011)) =
      (0x4444#16, 0x000B#16, 0x0102#16) := by decide

/-- 95_test_vectors.md 2.4. -/
theorem test_mod :
    (fun s => (s.reg 0, nzcv s)) (cycle [0x2412] (r 1 0x8000 ∘ r 2 0x0003)) =
      (0x0002#16, 0x0000#16) := by decide

/-- 95_test_vectors.md S3. -/
theorem test_mod_by_zero :
    (fun s => (s.reg 0, nzcv s, s.reg 15)) (cycle [0x2412] (r 0 0x4444 ∘ r 1 0x0007 ∘ fl 0b1011)) =
      (0x4444#16, 0x000B#16, 0x0102#16) := by decide

/-- 95_test_vectors.md 2.4. -/
theorem test_and :
    (fun s => (s.reg 0, nzcv s)) (cycle [0x2512] (r 1 0xF0F0 ∘ r 2 0x0FF0)) =
      (0x00F0#16, 0x0000#16) := by decide

/-- 95_test_vectors.md 2.4. -/
theorem test_or :
    (fun s => (s.reg 0, nzcv s)) (cycle [0x2612] (r 1 0xF000 ∘ r 2 0x000F)) =
      (0xF00F#16, 0x0008#16) := by decide

/-- 95_test_vectors.md 2.4. -/
theorem test_xor_self :
    (fun s => (s.reg 0, nzcv s)) (cycle [0x2711] (r 1 0x5A5A ∘ r 2 0x0000)) =
      (0x0000#16, 0x0004#16) := by decide

/-- 95_test_vectors.md 2.4. -/
theorem test_cmp :
    (fun s => (s.reg 0, nzcv s)) (cycle [0x2812] (r 0 0x4444 ∘ r 1 0x0003 ∘ r 2 0x0005)) =
      (0x4444#16, 0x000A#16) := by decide

/-- 95_test_vectors.md 2.4. -/
theorem test_tst :
    (fun s => (s.reg 0, nzcv s)) (cycle [0x2912] (r 0 0x4444 ∘ r 1 0x8001 ∘ r 2 0x8000)) =
      (0x4444#16, 0x0008#16) := by decide

/-- 95_test_vectors.md S1 (class 3 form). -/
theorem test_addi :
    (fun s => (s.reg 0, nzcv s)) (cycle [0x3010, 0xFFFF] (r 1 0x8000)) =
      (0x7FFF#16, 0x0003#16) := by decide

/-- 95_test_vectors.md 2.4 (class 3 form). -/
theorem test_subi :
    (fun s => (s.reg 0, nzcv s)) (cycle [0x3110, 0x0001] (r 1 0x0000)) =
      (0xFFFF#16, 0x000A#16) := by decide

/-- 95_test_vectors.md 2.4 (class 3 form). -/
theorem test_muli :
    (fun s => (s.reg 0, nzcv s)) (cycle [0x3210, 0x0002] (r 1 0x8000)) =
      (0x0000#16, 0x0006#16) := by decide

/-- 95_test_vectors.md 2.4 (class 3 form). -/
theorem test_divi :
    (fun s => (s.reg 0, nzcv s)) (cycle [0x3310, 0xFFFF] (r 1 0xFFFF)) =
      (0x0001#16, 0x0000#16) := by decide

/-- 95_test_vectors.md S3. -/
theorem test_divi_by_zero :
    (fun s => (s.reg 0, nzcv s, s.reg 15)) (cycle [0x3310, 0x0000] (r 0 0x0099 ∘ r 1 0x0005)) =
      (0x0099#16, 0x0000#16, 0x0104#16) := by decide

/-- 95_test_vectors.md 2.4 (class 3 form). -/
theorem test_modi :
    (fun s => (s.reg 0, nzcv s)) (cycle [0x3410, 0xFFFF] (r 1 0x0005)) =
      (0x0005#16, 0x0000#16) := by decide

/-- 95_test_vectors.md 2.4 (class 3 form). -/
theorem test_andi :
    (fun s => (s.reg 0, nzcv s)) (cycle [0x3510, 0x0FF0] (r 1 0xF0F0)) =
      (0x00F0#16, 0x0000#16) := by decide

/-- 95_test_vectors.md 2.4 (class 3 form). -/
theorem test_ori :
    (fun s => (s.reg 0, nzcv s)) (cycle [0x3610, 0x000F] (r 1 0xF000)) =
      (0xF00F#16, 0x0008#16) := by decide

/-- 95_test_vectors.md 2.4 (class 3 form). -/
theorem test_xori :
    (fun s => (s.reg 0, nzcv s)) (cycle [0x3710, 0x1234] (r 1 0x1234)) =
      (0x0000#16, 0x0004#16) := by decide

/-- 95_test_vectors.md 2.4 (class 3 form). -/
theorem test_cmpi :
    (fun s => (s.reg 0, nzcv s)) (cycle [0x3810, 0x8000] (r 0 0x4444 ∘ r 1 0x0001)) =
      (0x4444#16, 0x000B#16) := by decide

/-- 95_test_vectors.md 2.4 (class 3 form). -/
theorem test_tsti :
    (fun s => (s.reg 0, nzcv s)) (cycle [0x3910, 0x8000] (r 0 0x4444 ∘ r 1 0x8001)) =
      (0x4444#16, 0x0008#16) := by decide

/-- 95_test_vectors.md 2.5. -/
theorem test_inc :
    (fun s => (s.reg 1, nzcv s)) (cycle [0x4010] (r 1 0x7FFF)) =
      (0x8000#16, 0x0009#16) := by decide

/-- 95_test_vectors.md 2.5. -/
theorem test_inc_pc :
    (fun s => (s.reg 15)) (cycle [0x40F0] id) =
      (0x0103#16) := by decide

/-- 95_test_vectors.md 2.5. -/
theorem test_dec :
    (fun s => (s.reg 1, nzcv s)) (cycle [0x4110] (r 1 0x0000)) =
      (0xFFFF#16, 0x000A#16) := by decide

/-- 95_test_vectors.md 2.5. -/
theorem test_dec_overflow :
    (fun s => (s.reg 1, nzcv s)) (cycle [0x4110] (r 1 0x8000)) =
      (0x7FFF#16, 0x0001#16) := by decide

/-- 95_test_vectors.md 2.5. -/
theorem test_not :
    (fun s => (s.reg 1, nzcv s)) (cycle [0x4210] (r 1 0x00FF)) =
      (0xFF00#16, 0x0008#16) := by decide

/-- 95_test_vectors.md 2.5. -/
theorem test_neg :
    (fun s => (s.reg 1, nzcv s)) (cycle [0x4310] (r 1 0x8000)) =
      (0x8000#16, 0x000B#16) := by decide

/-- 95_test_vectors.md 2.5. -/
theorem test_neg_zero :
    (fun s => (s.reg 1, nzcv s)) (cycle [0x4310] (r 1 0x0000)) =
      (0x0000#16, 0x0004#16) := by decide

/-- 95_test_vectors.md 2.5. -/
theorem test_shl_16 :
    (fun s => (s.reg 1, nzcv s)) (cycle [0x4412] (r 1 0x8001 ∘ r 2 16)) =
      (0x0000#16, 0x0006#16) := by decide

/-- 95_test_vectors.md 2.5. -/
theorem test_shl_same_register :
    (fun s => (s.reg 1, nzcv s)) (cycle [0x4411] (r 1 0x0003)) =
      (0x0018#16, 0x0000#16) := by decide

/-- 95_test_vectors.md 2.5. -/
theorem test_shr :
    (fun s => (s.reg 1, nzcv s)) (cycle [0x4512] (r 1 0x8001 ∘ r 2 1)) =
      (0x4000#16, 0x0002#16) := by decide

/-- 95_test_vectors.md 2.5. -/
theorem test_shr_256 :
    (fun s => (s.reg 1, nzcv s)) (cycle [0x4512] (r 1 0x8001 ∘ r 2 256)) =
      (0x0000#16, 0x0004#16) := by decide

/-- 95_test_vectors.md 2.5. -/
theorem test_sar :
    (fun s => (s.reg 1, nzcv s)) (cycle [0x4612] (r 1 0x8001 ∘ r 2 4)) =
      (0xF800#16, 0x0008#16) := by decide

/-- 95_test_vectors.md 2.5. -/
theorem test_sar_17 :
    (fun s => (s.reg 1, nzcv s)) (cycle [0x4612] (r 1 0x8001 ∘ r 2 17)) =
      (0xFFFF#16, 0x000A#16) := by decide

/-- 95_test_vectors.md 2.5. -/
theorem test_shli :
    (fun s => (s.reg 1, nzcv s)) (cycle [0x4711] (r 1 0x4000)) =
      (0x8000#16, 0x0008#16) := by decide

/-- 95_test_vectors.md 2.5. -/
theorem test_shri :
    (fun s => (s.reg 1, nzcv s)) (cycle [0x481F] (r 1 0x4000)) =
      (0x0000#16, 0x0006#16) := by decide

/-- 95_test_vectors.md 2.5. -/
theorem test_sari :
    (fun s => (s.reg 1, nzcv s)) (cycle [0x4911] (r 1 0x8001)) =
      (0xC000#16, 0x000A#16) := by decide

/-- 95_test_vectors.md 2.6. -/
theorem test_ld :
    (fun s => (s.reg 1)) (cycle [0x5012] (r 2 0x8000 ∘ m 0x8000 0x1234)) =
      (0x1234#16) := by decide

/-- 95_test_vectors.md 2.6. -/
theorem test_ld_wraps :
    (fun s => (s.reg 1)) (cycle [0x5012] (r 2 0xFFFF ∘ fun s => (s.placeByte 0xFFFF 0x34).placeByte 0x0000 0x12)) =
      (0x1234#16) := by decide

/-- 95_test_vectors.md 2.6. -/
theorem test_st :
    (fun s => (s.memRead8 0x8010, s.memRead8 0x8011)) (cycle [0x5112] (r 1 0xBEEF ∘ r 2 0x8010)) =
      (0xEF#8, 0xBE#8) := by decide

/-- 95_test_vectors.md 2.6. -/
theorem test_st_over_the_boundary :
    (fun s => (s.memRead8 0x7FFF, s.memRead8 0x8000)) (cycle [0x5112] (r 1 0x1234 ∘ r 2 0x7FFF ∘ fun s => s.placeByte 0x7FFF 0xAA)) =
      (0xAA#8, 0x12#8) := by decide

/-- 95_test_vectors.md 2.6. -/
theorem test_ldb :
    (fun s => (s.reg 1)) (cycle [0x5212] (r 2 0x8000 ∘ m 0x8000 0x7780)) =
      (0x0080#16) := by decide

/-- 95_test_vectors.md 2.6. -/
theorem test_stb :
    (fun s => (s.memRead8 0x8000, s.memRead8 0x8001)) (cycle [0x5312] (r 1 0x12AB ∘ r 2 0x8000)) =
      (0xAB#8, 0x00#8) := by decide

/-- 95_test_vectors.md 2.6. -/
theorem test_lda :
    (fun s => (s.reg 3)) (cycle [0x5430, 0x8002] (m 0x8002 0x0042)) =
      (0x0042#16) := by decide

/-- 95_test_vectors.md 2.6. -/
theorem test_sta :
    (fun s => (s.memRead8 0x8004, s.memRead8 0x8005)) (cycle [0x5530, 0x8004] (r 3 0x0042)) =
      (0x42#8, 0x00#8) := by decide

/-- 95_test_vectors.md 2.6. -/
theorem test_ldba :
    (fun s => (s.reg 1)) (cycle [0x5610, 0x8003] (m 0x8003 0x66FF)) =
      (0x00FF#16) := by decide

/-- 95_test_vectors.md 2.6. -/
theorem test_stba :
    (fun s => (s.memRead8 0x8006, s.memRead8 0x8007)) (cycle [0x5710, 0x8006] (r 1 0x0155)) =
      (0x55#8, 0x00#8) := by decide

/-- 95_test_vectors.md 2.6. -/
theorem test_stia :
    (fun s => (s.memRead8 0x8008, s.memRead8 0x8009, s.reg 15)) (cycle [0x5800, 0x1234, 0x8008] id) =
      (0x34#8, 0x12#8, 0x0106#16) := by decide

/-- 95_test_vectors.md 2.7. -/
theorem test_push :
    (fun s => (s.reg 14, s.memRead8 0xFFFE, s.memRead8 0xFFFF)) (cycle [0x6010] (r 1 0xABCD)) =
      (0xFFFE#16, 0xCD#8, 0xAB#8) := by decide

/-- 95_test_vectors.md 2.7. -/
theorem test_push_sp :
    (fun s => (s.reg 14, s.memRead16 0x8FFE)) (cycle [0x60E0] (r 14 0x9000)) =
      (0x8FFE#16, 0x9000#16) := by decide

/-- 95_test_vectors.md 2.7. -/
theorem test_pop :
    (fun s => (s.reg 2, s.reg 14)) (cycle [0x6120] (r 14 0xFFFE ∘ m 0xFFFE 0xABCD)) =
      (0xABCD#16, 0x0000#16) := by decide

/-- 95_test_vectors.md 2.7. -/
theorem test_pop_sp :
    (fun s => (s.reg 14)) (cycle [0x61E0] (r 14 0x9000 ∘ m 0x9000 0x1234)) =
      (0x1234#16) := by decide

/-- 95_test_vectors.md 2.7. -/
theorem test_pushf :
    (fun s => (s.reg 14, s.memRead16 0xFFEE)) (cycle [0x6200] (r 14 0xFFF0 ∘ fl 0b1010)) =
      (0xFFEE#16, 0x000A#16) := by decide

/-- 95_test_vectors.md 2.7. -/
theorem test_popf :
    (fun s => (nzcv s, s.reg 14)) (cycle [0x6300] (r 14 0xFFEE ∘ m 0xFFEE 0xFFF5)) =
      (0x0005#16, 0xFFF0#16) := by decide

/-- The conditions, in the order of their codes (R101). -/
def conds : List Cond := [.al, .eq, .ne, .cs, .cc, .vs, .vc, .gt, .lt, .ge, .le, .hi, .ls, .mi, .pl, .nv]

/-- 95_test_vectors.md 2.8: the conditions true after `CMP a, b`. -/
theorem test_conditions_after_cmp :
    [(0x0005, 0x0005),
     (0x0003, 0x0005),
     (0x0005, 0x0003),
     (0x8000, 0x0001),
     (0x0001, 0x8000),
     (0xFFFF, 0x0001),
     (0x7FFF, 0xFFFF)].map (fun q => conds.filter fun c => condHolds c (subOp q.1 q.2).flags) =
    [[.al, .eq, .cc, .vc, .ge, .le, .ls, .pl],
     [.al, .ne, .cs, .vc, .lt, .le, .ls, .mi],
     [.al, .ne, .cc, .vc, .gt, .ge, .hi, .pl],
     [.al, .ne, .cc, .vs, .lt, .le, .hi, .pl],
     [.al, .ne, .cs, .vs, .gt, .ge, .ls, .mi],
     [.al, .ne, .cc, .vc, .lt, .le, .hi, .mi],
     [.al, .ne, .cs, .vs, .gt, .ge, .ls, .mi]] := by decide

/-- One instruction executed, its state left as it is if it does not complete. -/
def after1 (i : Instr) (s : State) : State :=
  match exec i s with
  | .next t => t
  | _ => s

/-- 46_control.md R230: which instructions of class 7 are taken with NZCV = 1010, by hand from the table of conditions. -/
theorem test_jumpReg_taken_1010 :
    [.jmpr 5, .jeqr 5, .jner 5, .jcsr 5, .jccr 5, .jvsr 5, .jvcr 5, .jgtr 5, .jltr 5, .jger 5, .jler 5, .jhir 5,
     .jlsr 5, .jmir 5, .jplr 5, .jnvr 5].map (fun i =>
        (after1 i (r 5 0x0040 (fl 0b1010 State.reset))).reg 15 == 0x0040) =
    [true, false, true, true, false, false, true, false, true, false, true, false, true, true, false, false] := by decide

/-- 46_control.md R230: which instructions of class 7 are taken with NZCV = 0101, by hand from the table of conditions. -/
theorem test_jumpReg_taken_0101 :
    [.jmpr 5, .jeqr 5, .jner 5, .jcsr 5, .jccr 5, .jvsr 5, .jvcr 5, .jgtr 5, .jltr 5, .jger 5, .jler 5, .jhir 5,
     .jlsr 5, .jmir 5, .jplr 5, .jnvr 5].map (fun i =>
        (after1 i (r 5 0x0040 (fl 0b0101 State.reset))).reg 15 == 0x0040) =
    [true, true, false, false, true, true, false, false, true, false, true, false, true, false, true, false] := by decide

/-- 46_control.md R230: which instructions of class 8 are taken with NZCV = 1010, by hand from the table of conditions. -/
theorem test_jumpAddr_taken_1010 :
    [.jmp 0x0040, .jeq 0x0040, .jne 0x0040, .jcs 0x0040, .jcc 0x0040, .jvs 0x0040, .jvc 0x0040, .jgt 0x0040,
     .jlt 0x0040, .jge 0x0040, .jle 0x0040, .jhi 0x0040, .jls 0x0040, .jmi 0x0040, .jpl 0x0040, .jnv 0x0040].map (fun i =>
        (after1 i (r 5 0x0040 (fl 0b1010 State.reset))).reg 15 == 0x0040) =
    [true, false, true, true, false, false, true, false, true, false, true, false, true, true, false, false] := by decide

/-- 46_control.md R230: which instructions of class 8 are taken with NZCV = 0101, by hand from the table of conditions. -/
theorem test_jumpAddr_taken_0101 :
    [.jmp 0x0040, .jeq 0x0040, .jne 0x0040, .jcs 0x0040, .jcc 0x0040, .jvs 0x0040, .jvc 0x0040, .jgt 0x0040,
     .jlt 0x0040, .jge 0x0040, .jle 0x0040, .jhi 0x0040, .jls 0x0040, .jmi 0x0040, .jpl 0x0040, .jnv 0x0040].map (fun i =>
        (after1 i (r 5 0x0040 (fl 0b0101 State.reset))).reg 15 == 0x0040) =
    [true, true, false, false, true, true, false, false, true, false, true, false, true, false, true, false] := by decide

/-- 46_control.md R230: which instructions of class 9 are taken with NZCV = 1010, by hand from the table of conditions. -/
theorem test_callReg_taken_1010 :
    [.callr 5, .calleqr 5, .callner 5, .callcsr 5, .callccr 5, .callvsr 5, .callvcr 5, .callgtr 5, .callltr 5,
     .callger 5, .calller 5, .callhir 5, .calllsr 5, .callmir 5, .callplr 5, .callnvr 5].map (fun i =>
        (after1 i (r 5 0x0040 (fl 0b1010 State.reset))).reg 15 == 0x0040) =
    [true, false, true, true, false, false, true, false, true, false, true, false, true, true, false, false] := by decide

/-- 46_control.md R230: which instructions of class 9 are taken with NZCV = 0101, by hand from the table of conditions. -/
theorem test_callReg_taken_0101 :
    [.callr 5, .calleqr 5, .callner 5, .callcsr 5, .callccr 5, .callvsr 5, .callvcr 5, .callgtr 5, .callltr 5,
     .callger 5, .calller 5, .callhir 5, .calllsr 5, .callmir 5, .callplr 5, .callnvr 5].map (fun i =>
        (after1 i (r 5 0x0040 (fl 0b0101 State.reset))).reg 15 == 0x0040) =
    [true, true, false, false, true, true, false, false, true, false, true, false, true, false, true, false] := by decide

/-- 46_control.md R230: which instructions of class A are taken with NZCV = 1010, by hand from the table of conditions. -/
theorem test_callAddr_taken_1010 :
    [.call 0x0040, .calleq 0x0040, .callne 0x0040, .callcs 0x0040, .callcc 0x0040, .callvs 0x0040,
     .callvc 0x0040, .callgt 0x0040, .calllt 0x0040, .callge 0x0040, .callle 0x0040, .callhi 0x0040,
     .callls 0x0040, .callmi 0x0040, .callpl 0x0040, .callnv 0x0040].map (fun i =>
        (after1 i (r 5 0x0040 (fl 0b1010 State.reset))).reg 15 == 0x0040) =
    [true, false, true, true, false, false, true, false, true, false, true, false, true, true, false, false] := by decide

/-- 46_control.md R230: which instructions of class A are taken with NZCV = 0101, by hand from the table of conditions. -/
theorem test_callAddr_taken_0101 :
    [.call 0x0040, .calleq 0x0040, .callne 0x0040, .callcs 0x0040, .callcc 0x0040, .callvs 0x0040,
     .callvc 0x0040, .callgt 0x0040, .calllt 0x0040, .callge 0x0040, .callle 0x0040, .callhi 0x0040,
     .callls 0x0040, .callmi 0x0040, .callpl 0x0040, .callnv 0x0040].map (fun i =>
        (after1 i (r 5 0x0040 (fl 0b0101 State.reset))).reg 15 == 0x0040) =
    [true, true, false, false, true, true, false, false, true, false, true, false, true, false, true, false] := by decide

/-- 95_test_vectors.md 2.8. -/
theorem test_jeqr :
    (fun s => (s.reg 15)) (cycle [0x7150] (fl 0b0100 ∘ r 5 0x0040)) =
      (0x0040#16) := by decide

/-- 95_test_vectors.md 2.8. -/
theorem test_jmpr_pc :
    (fun s => (s.reg 15)) (cycle [0x70F0] id) =
      (0x0102#16) := by decide

/-- 95_test_vectors.md 2.1. -/
theorem test_jnvr :
    (fun s => (s.reg 15)) (cycle [0x7F50] (r 5 0x0040)) =
      (0x0102#16) := by decide

/-- 95_test_vectors.md 2.1. -/
theorem test_jne_not_taken :
    (fun s => (s.reg 15)) (cycle [0x8200, 0x0004] (fl 0b0100)) =
      (0x0104#16) := by decide

/-- 95_test_vectors.md 2.1. -/
theorem test_jne_ignores_y :
    (fun s => (s.reg 15)) (cycle [0x820F, 0x0004] id) =
      (0x0004#16) := by decide

/-- 95_test_vectors.md 2.8. -/
theorem test_jnv :
    (fun s => (s.reg 15)) (cycle [0x8F00, 0x0200] id) =
      (0x0104#16) := by decide

/-- 95_test_vectors.md 2.8 (at 0100). -/
theorem test_callr :
    (fun s => (s.reg 15, s.reg 14, s.memRead16 0xFFFE)) (cycle [0x9040] (r 4 0x0200)) =
      (0x0200#16, 0xFFFE#16, 0x0102#16) := by decide

/-- 95_test_vectors.md 2.8. -/
theorem test_callr_sp :
    (fun s => (s.reg 15, s.reg 14, s.memRead16 0x8FFE)) (cycle [0x90E0] (r 14 0x9000)) =
      (0x9000#16, 0x8FFE#16, 0x0102#16) := by decide

/-- 95_test_vectors.md 2.8 (at 0100). -/
theorem test_call :
    (fun s => (s.reg 15, s.reg 14, s.memRead16 0xFFFE)) (cycle [0xA000, 0x0200] id) =
      (0x0200#16, 0xFFFE#16, 0x0104#16) := by decide

/-- 95_test_vectors.md 2.8. -/
theorem test_calleq_not_taken :
    (fun s => (s.reg 15, s.reg 14, s.memRead16 0x8FFE)) (cycle [0xA100, 0x0200] (r 14 0x9000)) =
      (0x0104#16, 0x9000#16, 0x0000#16) := by decide

/-- 95_test_vectors.md 2.9. -/
theorem test_in :
    (fun s => (s.reg 1)) (cycle [0xB811] (p 8 1 0x0020)) =
      (0x0020#16) := by decide

/-- 95_test_vectors.md 2.9. -/
theorem test_out_remaps :
    (fun s => (s.ioReg 0 1, s.reg 1)) (cycle [0xC011] (r 1 0x0003)) =
      (0x0003#16, 0x0003#16) := by decide

/-- 95_test_vectors.md 2.9. -/
theorem test_out_count_is_counted_in_its_own_cycle :
    (fun s => (s.ioReg 4 0)) (cycle [0xC410] (r 1 0x0005)) =
      (0x0000#16) := by decide

/-! ## The MMU (95_test_vectors.md 2.6 and S5) -/

/-- 95_test_vectors.md 2.6, first corner. -/
theorem test_mmu_undefined_kind :
    (fun s => (s.memRead16 0x8000, s.memWrite16 0x8000 0xFFFF == s)) (p 0 2 0x0007 (m 0x8000 0x1234 State.reset)) =
      (0x0000#16, true) := by decide

/-- 95_test_vectors.md 2.6: N_RAM_BANKS = 2. -/
theorem test_mmu_bank_out_of_range :
    (p 0 3 0x0002 (m 0x8000 0x1234 State.reset)).memRead8 0x8000 = 0x00 := by decide

/-- 95_test_vectors.md 2.6. -/
theorem test_mmu_rom_is_not_written :
    (State.reset.memWrite8 0x0010 0x77).memRead8 0x0010 = 0x00 := by decide

/-- 95_test_vectors.md 2.6: HI_KIND = 1, DISK bank 0. -/
theorem test_mmu_disk :
    (fun s => (s.memRead8 0x8005, (s.memWrite8 0x8006 0x09).disk)) ((p 0 2 0x0001 State.reset).placeByte 0x8005 0x42) =
      (0x42#8, [(5, 0x42#8), (6, 0x09#8)]) := by decide

/-- 95_test_vectors.md 2.6: both halves RAM bank 0. -/
theorem test_mmu_aliases :
    ((p 0 0 0x0002 State.reset).memWrite8 0x0123 0x5A).memRead8 0x8123 = 0x5A := by decide

/-! ## Interrupts and the PIC (95_test_vectors.md 2.10 and S6) -/

/-- 95_test_vectors.md 2.10: entry and the NOP at 0x0040 in one cycle. -/
theorem test_interrupt_entry :
    (fun s => ([s.memRead16 0xFFFE, s.memRead16 0xFFFC, s.reg 14, s.reg 15, nzcv s], s.irqPending))
      (cycle [0x4110] ((fun s => s.setIrq true 0x0040) ∘ fl 0b1010)) =
    ([0x0100, 0x000A, 0xFFFC, 0x0042, 0x000A], false) := by decide

/-- 95_test_vectors.md S6, step 1. -/
theorem test_pic_masked_raise :
    (p 8 4 0x0100 State.reset).raiseLine 5 = p 8 4 0x0100 State.reset := by decide

/-- 95_test_vectors.md S6, steps 2 and 3. -/
theorem test_pic_selects :
    (fun s => ([s.ioReg 8 0, s.ioReg 8 1, s.ioReg 8 2, s.ioReg 8 3, s.irqVector], s.irqPending)) (((p 8 0 0xFFDF (p 8 4 0x0100 State.reset)).raiseLine 5).picStep) =
      ([0xFFDF, 0x0020, 0x0000, 0x0000, 0x0105], true) := by decide

/-- 95_test_vectors.md 2.10. -/
theorem test_pic_lowest_line_wins :
    (fun s => ([s.ioReg 8 0, s.ioReg 8 1, s.ioReg 8 2, s.ioReg 8 3, s.irqVector], s.irqPending)) ((p 8 0 0x0000 (p 8 2 0x00A0 (p 8 4 0x0200 State.reset))).picStep) =
      ([0x0000, 0x0020, 0x0080, 0x0000, 0x0205], true) := by decide

/-- 95_test_vectors.md 2.10. -/
theorem test_pic_in_service_blocks :
    (fun s => ([s.ioReg 8 0, s.ioReg 8 1, s.ioReg 8 2, s.ioReg 8 3, s.irqVector], s.irqPending)) ((p 8 0 0x0000 (p 8 1 0x0020 (p 8 2 0x0080 State.reset))).picStep) =
      ([0x0000, 0x0020, 0x0080, 0x0000, 0x0000], false) := by decide

/-- 95_test_vectors.md 2.10. -/
theorem test_pic_eoi_then_select :
    (fun s => ([s.ioReg 8 0, s.ioReg 8 1, s.ioReg 8 2, s.ioReg 8 3, s.irqVector], s.irqPending)) ((p 8 0 0x0000 (p 8 1 0x0020 (p 8 2 0x0080 (p 8 3 0x0020 (p 8 4 0x0200 State.reset))))).picStep) =
      ([0x0000, 0x0080, 0x0000, 0x0000, 0x0207], true) := by decide

/-! ## The DMA engine (95_test_vectors.md 2.11 and S7) -/

/-- A DMA request over RAM bytes 01, 02, 03, 04 at 0x8000. -/
def dma (src dst count ctrl : Word) : State :=
  p 7 0 src (p 7 1 dst (p 7 2 count (p 7 3 ctrl (p 8 0 0x0000 (m 0x8000 0x0201 (m 0x8002 0x0403 State.reset))))))

/-- STAT, CTRL, IRR and two words of RAM. -/
def dmaView (s : State) : List Word := [s.ioReg 7 4, s.ioReg 7 3, s.ioReg 8 2, s.memRead16 0x8100, s.memRead16 0x8102]

/-- 95_test_vectors.md S7, first row. -/
theorem test_dma_rejects :
    dmaView (dma 0x8000 0x8100 0x9000 0x0003).dmaStep = [0x0004, 0x0002, 0x0000, 0x0000, 0x0000] := by decide

/-- 95_test_vectors.md S7, second row, with three bytes. -/
theorem test_dma_copies :
    dmaView (dma 0x8000 0x8100 0x0003 0x0003).dmaStep = [0x0002, 0x0002, 0x0080, 0x0201, 0x0003] := by decide

/-- 95_test_vectors.md 2.11. -/
theorem test_dma_forward_overlap :
    (fun s => [s.memRead16 0x8000, s.memRead16 0x8002, s.memRead16 0x8004, s.memRead16 0x8006])
      (dma 0x8000 0x8002 0x0006 0x0001).dmaStep = [0x0201, 0x0201, 0x0201, 0x0201] := by decide

/-- 95_test_vectors.md 2.11, last row. -/
theorem test_dma_idle :
    (dma 0x8000 0x8100 0x0004 0x0000).dmaStep = dma 0x8000 0x8100 0x0004 0x0000 := by decide

/-! ## The timers (95_test_vectors.md 2.12) -/

/-- Timer 0 with the given registers, at tick `k`, line 4 unmasked. -/
def timer (count psc cmp init status : Word) (k : BitVec 32) : State :=
  (p 4 0 count (p 4 1 psc (p 4 2 cmp (p 4 3 init (p 4 4 status (p 8 0 0x0000 State.reset)))))).setTick k

/-- COUNT and IRR after one step of timer 0. -/
def timerView (s : State) : List Word := [(s.timerStep 0).ioReg 4 0, (s.timerStep 0).ioReg 8 2]

/-- 95_test_vectors.md 2.12, first row, ticks 1 and 2. -/
theorem test_timer_up :
    [timerView (timer 1 0 3 0 0 1), timerView (timer 2 0 3 0 0 2)] = [[2, 0], [0, 0x0010]] := by decide

/-- 95_test_vectors.md 2.12, second row, ticks 1 and 4. -/
theorem test_timer_prescaled :
    [timerView (timer 1 1 3 0 0 1), timerView (timer 2 1 3 0 0 4)] = [[1, 0], [0, 0x0010]] := by decide

/-- 95_test_vectors.md 2.12, third row, ticks 1 and 2. -/
theorem test_timer_down :
    [timerView (timer 4 0 2 5 1 1), timerView (timer 3 0 2 5 1 2)] = [[3, 0], [5, 0x0010]] := by decide

/-- 95_test_vectors.md 2.12, last row. -/
theorem test_timer_down_from_zero :
    timerView (timer 0 0 0 0 1 0) = [0xFFFF, 0] := by decide

/-! ## Reset and the fetched instruction -/

/-- The memory after reset has the canonical form (R50). -/
theorem test_reset_meets_the_invariant : State.reset.wf := by decide

/-- 95_test_vectors.md 2.13: the first cycle fetches from ROM bank 0 offset 0. -/
theorem test_reset_fetch : (State.reset.reg 15, State.reset.translate 0x0000) = (0x0000, some ⟨.rom, 0, 0⟩) := by decide

/-- `step` runs the placed instruction first: `MOVI R0, #5`. -/
theorem test_withFetchWord :
    (fun s => (s.reg 0, s.reg 15)) (after (State.reset.withFetchWord 32 0x00051100)) = (0x0005#16, 0x0004#16) := by decide

/-- A row whose table bits leave out its operand words: `STIA` with both words 0. -/
theorem test_withFetchWord_short_row : (after (State.reset.withFetchWord 16 0x5800)).reg 15 = 0x0006 := by decide

/-! ## The end of a cycle (R301, R332) -/

/-- 70_reset_and_hazards.md R404: a reset timer's line, unmasked, is selected in the same cycle. -/
theorem test_timer_event_is_selected_in_its_cycle :
    (fun s => ([s.ioReg 8 0, s.ioReg 8 1, s.ioReg 8 2, s.ioReg 8 3, s.irqVector], s.irqPending)) (cycle [0x0000] (p 8 0 0xFFEF)) =
      ([0xFFEF, 0x0010, 0x0000, 0x0000, 0x0004], true) := by decide

/-- 60_exceptions.md R332: the line of a transfer enabled by this cycle's OUT is selected in it. -/
theorem test_dma_completion_is_selected_in_its_cycle :
    (fun s => ([s.ioReg 8 0, s.ioReg 8 1, s.ioReg 8 2, s.ioReg 8 3, s.irqVector], s.irqPending)) (cycle [0xC713] (r 1 0x0003 ∘ p 8 0 0xFF7F)) =
      ([0xFF7F, 0x0080, 0x0000, 0x0000, 0x0007], true) := by decide

/-- 46_control.md R230 on the flags of 95_test_vectors.md 2.4's MUL of 0100 by 0100, NZCV = 0110. -/
theorem test_conditions_with_z_and_c :
    conds.filter (fun c => condHolds c (mulOp 0x0100 0x0100).flags) =
      [.al, .eq, .cs, .vc, .ge, .le, .ls, .pl] := by decide

/-! ## Witnesses: a state and operands that meet the hypotheses of each statement, at the boundaries of each clause -/

/-- A step that completes is a step to `after`. -/
theorem step_after {s : State} (h : (match step s with | .next _ => true | _ => false) = true) :
    step s = .next (after s) := by
  unfold after
  cases hs : step s <;> simp_all

/-- An instruction that completes leaves `after1`. -/
theorem exec_after1 {i : Instr} {s : State} (h : (match exec i s with | .next _ => true | _ => false) = true) :
    exec i s = .next (after1 i s) := by
  unfold after1
  cases hs : exec i s <;> simp_all

/-- A location in a mapped bank has the bank number of one of the two records. -/
theorem bank_of_mapped {s : State} {l : Location} (h : s.mapped l) :
    l.bank = (s.ioReg 0 1).toNat ∨ l.bank = (s.ioReg 0 3).toNat := by
  obtain ⟨a, ha⟩ := h
  unfold State.translate at ha
  split at ha
  · cases ha
  · dsimp only at ha
    split at ha
    · cases ha
      unfold bankReg
      cases a.msb
      · exact .inl rfl
      · exact .inr rfl
    · cases ha

theorem witness_DecodeOfEncode :
    [Instr.movi 15 0xFFFF, .shli 0 15, .stia 0 0xFFFF, .undefSystem 4, .undefSystem 0xFFF, .undefMove 2, .undefStack 15].all
      Instr.wf = true := by decide

/-- The words R103 lists, as UndefinedEncodingsAreOneWordNoOps states them. -/
def undefWord (w : Word) : Bool :=
  let c := w.toNat / 4096
  let t := w.toNat / 256 % 16
  decide ((c = 0 ∧ 4 ≤ w.toNat) ∨ (c = 1 ∧ 2 ≤ t) ∨ ((c = 2 ∨ c = 3 ∨ c = 4) ∧ 10 ≤ t) ∨ (c = 5 ∧ 9 ≤ t) ∨
    (c = 6 ∧ 4 ≤ t) ∨ 13 ≤ c)

theorem witness_UndefinedEncodings :
    [0x0004, 0x0FFF, 0x1200, 0x1FFF, 0x2A00, 0x2FFF, 0x3A00, 0x4A00, 0x5900, 0x6400, 0x6FFF, 0xD000, 0xFFFF].all undefWord =
        true ∧
      [0x0003, 0x1000, 0x11FF, 0x29FF, 0x39FF, 0x49FF, 0x58FF, 0x63FF, 0x7000, 0xCFFF].all (fun v => !undefWord v) = true := by decide

/-- With no interrupt pending, the bytes read from PC on decide what the next cycle executes. -/
theorem fetches_of {s : State} {i : Instr} {bytes rest : List Byte} (hp : s.irqPending = false)
    (hb : s.window (s.reg pcIx) = bytes) (hd : decodeBytes bytes = .ok (i, rest)) :
    Fetches s i (s.setReg pcIx (s.reg pcIx + BitVec.ofNat 16 (6 - rest.length))) := by
  refine ⟨rest, ?_, ?_⟩ <;> simp [hp, hb, hd]

/-- With an interrupt pending, the bytes read at its vector do. -/
theorem fetches_of_pending {s : State} {i : Instr} {bytes rest : List Byte} (hp : s.irqPending = true)
    (hb : s.interruptEntry.window (s.interruptEntry.reg pcIx) = bytes) (hd : decodeBytes bytes = .ok (i, rest)) :
    ∃ e, Fetches s i e :=
  ⟨_, rest, by simp [hp, hb, hd], rfl⟩

theorem witness_StepRuns_short :
    (start [0x1012] id).halted = false ∧
      Fetches (start [0x1012] id) (.mov 1 2) ((start [0x1012] id).setReg pcIx
        ((start [0x1012] id).reg pcIx + BitVec.ofNat 16 (6 - 4))) := ⟨by decide, fetches_of (bytes := [0x12, 0x10, 0, 0, 0, 0]) (rest := [0, 0, 0, 0]) (by decide) (by decide) (by decide)⟩

theorem witness_StepRuns_long :
    (start [0x5800, 0x1234, 0x8008] id).halted = false ∧
      Fetches (start [0x5800, 0x1234, 0x8008] id) (.stia 0x1234 0x8008) ((start [0x5800, 0x1234, 0x8008] id).setReg pcIx
        ((start [0x5800, 0x1234, 0x8008] id).reg pcIx + BitVec.ofNat 16 (6 - 0))) := ⟨by decide, fetches_of (bytes := [0x00, 0x58, 0x34, 0x12, 0x08, 0x80]) (rest := []) (by decide) (by decide) (by decide)⟩

theorem witness_StepRuns_pending :
    (start [0x1012] (fun s => s.setIrq true 0x0100)).halted = false ∧
      ∃ e, Fetches (start [0x1012] (fun s => s.setIrq true 0x0100)) (.mov 1 2) e := ⟨by decide, fetches_of_pending (bytes := [0x12, 0x10, 0, 0, 0, 0]) (rest := [0, 0, 0, 0]) (by decide) (by decide) (by decide)⟩

theorem witness_RetPopsThePc_unmapped :
    (fun s : State => s.translate (s.reg spIx) = none ∧ s.translate (s.reg spIx + 1#16) = none) (p 0 0 0x0003 State.reset) := by decide

theorem witness_RetPopsThePc_top :
    (r 14 0xFFFF State.reset).reg spIx = 0xFFFF := by decide

theorem witness_DivAndMod_nonzero :
    (r 2 0x0001 State.reset).reg 2 ≠ 0 ∧ (0xFFFF : Word) ≠ 0 := by decide

theorem witness_DivAndMod_zero :
    State.reset.reg 2 = 0 ∧ (0x0000 : Word) = 0 := by decide

theorem witness_PopsLoadFromSp :
    (13 : RegIx) ≠ spIx ∧ (15 : RegIx) ≠ spIx := by decide

theorem witness_PushThenPop :
    State.reset.canWrite (State.reset.reg spIx - 2#16) = true ∧ State.reset.canWrite (State.reset.reg spIx - 1#16) = true := by decide

theorem witness_RegisterJumps :
    (0, .jmpr 5) ∈ jumpRegForms 5 ∧ trueWhen 0 State.reset.flags ∧ (15, .jnvr 15) ∈ jumpRegForms 15 ∧
      ¬ trueWhen 15 State.reset.flags := ⟨by decide, trivial, by decide, id⟩

theorem witness_AddressJumps :
    (0, .jmp 0xFFFF) ∈ jumpAddrForms 0xFFFF ∧ trueWhen 0 State.reset.flags ∧ (15, .jnv 0) ∈ jumpAddrForms 0 ∧
      ¬ trueWhen 15 State.reset.flags := ⟨by decide, trivial, by decide, id⟩

theorem witness_RegisterCalls :
    (12, .calllsr 14) ∈ callRegForms 14 ∧ trueWhen 12 (fl 0b0110 State.reset).flags ∧ ¬ trueWhen 12 State.reset.flags := by
  refine ⟨by decide, .inl rfl, ?_⟩
  rintro (h | h) <;> cases h

theorem witness_AddressCalls :
    (2, .callne 0x0100) ∈ callAddrForms 0x0100 ∧ trueWhen 2 State.reset.flags ∧ ¬ trueWhen 2 (fl 0b0100 State.reset).flags := ⟨by decide, rfl, fun h => by cases h⟩

theorem witness_InReadsAndOutWrites :
    (1 : IoIx) ≠ 0 ∧ (15 : IoIx) ≠ 0 ∧ ¬((0 : IoIx) = 0 ∧ (1 : IoIx) = 0) := by decide

theorem witness_ByteAccesses_unmapped :
    (p 0 0 0x0003 State.reset).translate 0x0000 = none ∧ (p 0 3 0x0002 State.reset).translate 0xFFFF = none := by decide

theorem witness_ByteAccesses_rom :
    State.reset.translate 0x0000 = some ⟨.rom, 0, 0⟩ ∧ (p 0 1 0x0003 State.reset).translate 0x7FFF = some ⟨.rom, 3, 0x7FFF⟩ := by decide

theorem witness_ByteAccesses_written :
    State.reset.translate 0x8000 = some ⟨.ram, 0, 0⟩ ∧ State.reset.translate 0xFFFF = some ⟨.ram, 0, 0x7FFF⟩ ∧
      StoreKind.ram ≠ .rom ∧ (⟨.ram, 0, 1⟩ : Location) ≠ ⟨.ram, 0, 0⟩ := by decide

theorem witness_WordAccesses :
    State.reset.canWrite 0x8000 = true ∧ State.reset.canWrite 0x8001 = true ∧
      (p 0 0 0x0001 State.reset).canWrite 0xFFFF = true ∧ (p 0 0 0x0001 State.reset).canWrite (0xFFFF + 1#16) = true := by decide

theorem witness_SameBytesBut_other_bytes :
    [0x8000, 0x8001].all (fun a => State.reset.translate a != some ⟨.ram, 0, 2⟩ &&
      State.reset.translate a != State.reset.translate 0x8002) = true := by decide

theorem witness_RomIsNeverWritten :
    step (start [0x5800, 0x1234, 0x0100] id) = .next (after (start [0x5800, 0x1234, 0x0100] id)) := step_after (by decide)

theorem witness_UnmappedBanks :
    step State.reset = .next (after State.reset) ∧ ¬ State.reset.mapped ⟨.ram, 1, 0⟩ ∧
      ¬ (after State.reset).mapped ⟨.ram, 1, 0⟩ :=
  ⟨step_after (by decide),
    fun h => (bank_of_mapped h).elim (fun e => absurd e (by decide)) (fun e => absurd e (by decide)),
    fun h => (bank_of_mapped h).elim (fun e => absurd e (by decide)) (fun e => absurd e (by decide))⟩

theorem witness_StepKeepsTheInvariant :
    State.reset.wf ∧ step State.reset = .next (after State.reset) := ⟨by decide, step_after (by decide)⟩

theorem witness_ResetMeetsTheInvariant :
    BankCounts.wf ⟨1, 1, 1⟩ ∧ Memory.wf [(0, 0x11), (0x7FFF, 0x22)] ∧ Memory.within [(0, 0x11), (0x7FFF, 0x22)] 1 ∧
      Memory.wf [] ∧ Memory.within [] 1 := by decide

theorem witness_OnlyHalt_halted :
    State.reset.setHalted.halted = true := by decide

theorem witness_OnlyHalt_running :
    (start [0x0001] id).halted = false ∧ step (start [0x0001] id) = .next (after (start [0x0001] id)) ∧
      (start [0x0001] id).beginCycle.fetchDecode.1 = .halt := ⟨by decide, step_after (by decide), by decide⟩

theorem witness_FlagPreserving :
    classOf ((Instr.mov 0 1).encode.headD 0) ∉ ([2, 3, 4] : List (BitVec 4)) ∧ Instr.mov 0 1 ≠ .popf ∧
      Instr.mov 0 1 ≠ .reti ∧ exec (.mov 0 1) State.reset = .next (after1 (.mov 0 1) State.reset) := ⟨by decide, by decide, by decide, exec_after1 (by decide)⟩

theorem witness_FlagPreserving_io :
    classOf ((Instr.ioOut 0 15 15).encode.headD 0) ∉ ([2, 3, 4] : List (BitVec 4)) ∧
      classOf ((Instr.undefSystem 4).encode.headD 0) ∉ ([2, 3, 4] : List (BitVec 4)) ∧
      classOf ((Instr.ld 0 15).encode.headD 0) ∉ ([2, 3, 4] : List (BitVec 4)) := by decide

theorem witness_OnlyOut_instruction :
    (∀ x p r, Instr.stia 0 0 ≠ .ioOut x p r) ∧ exec (.stia 0 0) State.reset = .next (after1 (.stia 0 0) State.reset) := ⟨fun _ _ _ => by simp, exec_after1 (by decide)⟩

theorem witness_OnlyOut_step :
    (∀ x p r, State.reset.beginCycle.fetchDecode.1 ≠ .ioOut x p r) ∧ step State.reset = .next (after State.reset) ∧
      ((3 : IoIx).val < 4 ∨ 9 ≤ (3 : IoIx).val) ∧ ((9 : IoIx).val < 4 ∨ 9 ≤ (9 : IoIx).val) :=
  have h : State.reset.beginCycle.fetchDecode.1 = .nop := by decide
  ⟨fun _ _ _ => by rw [h]; simp, step_after (by decide), by decide, by decide⟩

theorem witness_EoiAndDmaEnable :
    (start [0xC813] (r 1 0x0010)).halted = false ∧
      step (start [0xC813] (r 1 0x0010)) = .next (after (start [0xC813] (r 1 0x0010))) := ⟨by decide, step_after (by decide)⟩

theorem witness_InterruptEntry :
    (State.reset.setIrq true 0x0040).halted = false ∧ (State.reset.setIrq true 0x0040).irqPending = true := by decide

theorem witness_RetiUndoesInterruptEntry :
    [1, 2, 3, 4].all (fun k => State.reset.canWrite (State.reset.reg spIx - k)) = true := by decide

theorem witness_MaskedRaises_masked :
    ∀ l : Fin 16, (State.reset.ioReg 8 0).getLsbD l = true := by decide

theorem witness_MaskedRaises_unmasked :
    ∀ l : Fin 16, ((p 8 0 0x0000 (p 8 2 0xFFFF State.reset)).ioReg 8 0).getLsbD l = false ∧
      ((p 8 0 0x0000 (p 8 2 0xFFFF State.reset)).ioReg 8 2).getLsbD l = true := by decide

theorem witness_PicSelects_in_service :
    (fun s : State => s.ioReg 8 1 &&& ~~~(s.ioReg 8 3) ≠ 0) (p 8 1 0x0001 State.reset) := by decide

theorem witness_PicSelects_no_candidate :
    (fun s : State => s.ioReg 8 1 &&& ~~~(s.ioReg 8 3) = 0 ∧ s.ioReg 8 2 &&& ~~~(s.ioReg 8 0) = 0) (p 8 2 0xFFFF State.reset) := by decide

/-- Nothing in service and `l` the lowest unmasked request: the premises of the selecting clause. -/
abbrev Selects (s : State) (l : Fin 16) : Prop :=
  s.ioReg 8 1 &&& ~~~(s.ioReg 8 3) = 0 ∧ (s.ioReg 8 2 &&& ~~~(s.ioReg 8 0)).getLsbD l = true ∧
    ∀ k : Fin 16, k < l → (s.ioReg 8 2 &&& ~~~(s.ioReg 8 0)).getLsbD k = false

theorem witness_PicSelects_lowest_and_highest_line :
    Selects (p 8 0 0x0000 (p 8 2 0xFFFF State.reset)) 0 ∧ Selects (p 8 0 0x7FFF (p 8 2 0xFFFF State.reset)) 15 := by decide

/-- The premises of RequestIsEnteredInTheNextCycle on the state `e` after the execute phase. -/
abbrev Lowest (e : State) (l : Fin 16) : Prop :=
  Candidate e l ∧ (∀ k : Fin 16, k < l → ¬ Candidate e k) ∧ e.ioReg 8 1 &&& ~~~(e.ioReg 8 3) = 0

/-- The state with PC past one word. -/
abbrev pastWord (s : State) : State := s.setReg pcIx (s.reg pcIx + BitVec.ofNat 16 (6 - 4))

/-- All of its premises, for a one-word instruction `i`. -/
abbrev Requested (s : State) (i : Instr) (l : Fin 16) : Prop :=
  s.halted = false ∧ Fetches s i (pastWord s) ∧ exec i (pastWord s) = .next (after1 i (pastWord s)) ∧
    Lowest (after1 i (pastWord s)) l

theorem witness_RequestIsEntered_out_line_0 :
    Requested (start [0xC812] (r 1 0xFFFF ∘ p 8 0 0x0000)) (.ioOut 1 8 2) 0 := ⟨by decide,
    fetches_of (bytes := [0x12, 0xC8, 0, 0, 0, 0]) (rest := [0, 0, 0, 0]) (by decide) (by decide) (by decide),
    exec_after1 (by decide), by decide⟩

theorem witness_RequestIsEntered_out_line_15_lower_lines_masked :
    Requested (start [0xC812] (r 1 0x8000 ∘ p 8 0 0x7FFF)) (.ioOut 1 8 2) 15 := ⟨by decide,
    fetches_of (bytes := [0x12, 0xC8, 0, 0, 0, 0]) (rest := [0, 0, 0, 0]) (by decide) (by decide) (by decide),
    exec_after1 (by decide), by decide⟩

theorem witness_RequestIsEntered_timer_lower_lines_idle :
    Requested (start [0x0000] (p 8 0 0x0000)) (.nop) 4 := ⟨by decide,
    fetches_of (bytes := [0, 0, 0, 0, 0, 0]) (rest := [0, 0, 0, 0]) (by decide) (by decide) (by decide),
    exec_after1 (by decide), by decide⟩

theorem witness_RequestIsEntered_dma_with_halt :
    Requested (start [0x0001] (p 7 3 0x0003 ∘ p 7 2 0x8000 ∘ p 8 0 0xFF0F ∘ p 4 2 5 ∘ p 5 2 5 ∘ p 6 2 5)) (.halt) 7 := ⟨by decide,
    fetches_of (bytes := [1, 0, 0, 0, 0, 0]) (rest := [0, 0, 0, 0]) (by decide) (by decide) (by decide),
    exec_after1 (by decide), by decide⟩

theorem witness_TimerStep_not_counted :
    (timer 0 1 0 0 0 1).tick.toNat % (((timer 0 1 0 0 0 1).ioReg 4 1).toNat + 1) ≠ 0 := by decide

theorem witness_TimerStep_counted :
    (timer 0 0xFFFF 0 0 0 0x10000).tick.toNat % (((timer 0 0xFFFF 0 0 0 0x10000).ioReg 4 1).toNat + 1) = 0 := by decide

/-- The premises both directions of TimerPeriodIsTheDistanceToTheComparator share, for timer 0, line 4 unmasked. -/
abbrev AtInit (s : State) : Prop :=
  s.tick.toNat % ((s.ioReg 4 1).toNat + 1) = 0 ∧ s.ioReg 4 0 = s.ioReg 4 3 ∧ (s.ioReg 8 0).getLsbD 4 = false

theorem witness_TimerPeriod_up :
    AtInit (timer 0xFFFE 0 0xFFFF 0xFFFE 0 0) ∧ ((timer 0xFFFE 0 0xFFFF 0xFFFE 0 0).ioReg 4 4).getLsbD 0 = false ∧
      ((timer 0xFFFE 0 0xFFFF 0xFFFE 0 0).ioReg 4 3).toNat < ((timer 0xFFFE 0 0xFFFF 0xFFFE 0 0).ioReg 4 2).toNat := by decide

theorem witness_TimerPeriod_down :
    AtInit (timer 1 0 0 1 1 0) ∧ ((timer 1 0 0 1 1 0).ioReg 4 4).getLsbD 0 = true ∧
      ((timer 1 0 0 1 1 0).ioReg 4 2).toNat < ((timer 1 0 0 1 1 0).ioReg 4 3).toNat := by decide

theorem witness_DmaRejects_over_the_ceiling :
    ((dma 0x8000 0x8100 0x8001 1).ioReg 7 3).getLsbD 0 = true ∧ 0x8000 < ((dma 0x8000 0x8100 0x8001 1).ioReg 7 2).toNat := by decide

theorem witness_DmaRejects_at_the_ceiling :
    ((dma 0x8000 0x8100 0x8000 1).ioReg 7 3).getLsbD 0 = true ∧ ((dma 0x8000 0x8100 0x8000 1).ioReg 7 2).toNat ≤ 0x8000 := by decide

theorem witness_DmaCopies_idle :
    ((dma 0x8000 0x8100 4 0).ioReg 7 3).getLsbD 0 = false := by decide

/-- The premises of DmaCopyOfDisjointRanges. -/
abbrev DisjointCopy (s : State) : Prop :=
  (s.ioReg 7 3).getLsbD 0 = true ∧ (s.ioReg 7 2).toNat ≤ 0x8000 ∧
    (∀ k, k < (s.ioReg 7 2).toNat → s.canWrite (s.ioReg 7 1 + BitVec.ofNat 16 k) = true) ∧
    ∀ j, j < (s.ioReg 7 2).toNat → ∀ k, k < (s.ioReg 7 2).toNat →
      s.translate (s.ioReg 7 1 + BitVec.ofNat 16 j) ≠ s.translate (s.ioReg 7 0 + BitVec.ofNat 16 k)

theorem witness_DmaCopyOfDisjointRanges :
    DisjointCopy (dma 0x8000 0x8002 2 1) ∧ DisjointCopy (dma 0xFFFF 0x8001 2 1) := by decide

theorem witness_SubtractThenAdd :
    (1 : RegIx) ≠ accIx ∧ (15 : RegIx) ≠ accIx := by decide

theorem witness_QuotientAndRemainder :
    (r 2 0x0001 State.reset).reg 2 ≠ 0 ∧ (r 2 0xFFFF State.reset).reg 2 ≠ 0 := by decide

theorem witness_ResetValues :
    ¬((0 : IoIx) = 0 ∧ (0 : IoIx) = 2) ∧ ¬((0 : IoIx) = 8 ∧ (0 : IoIx) = 0) ∧ ¬((15 : IoIx) = 0 ∧ (15 : IoIx) = 2) ∧
      ¬((15 : IoIx) = 8 ∧ (15 : IoIx) = 0) := by decide

theorem witness_InjectedScancodes :
    ¬((1 : IoIx) = 1 ∧ ((2 : IoIx) = 0 ∨ (2 : IoIx) = 1)) ∧ ¬((0 : IoIx) = 1 ∧ ((0 : IoIx) = 0 ∨ (0 : IoIx) = 1)) := by decide

end Sys2Proof.Tests
end

section
/-! PROOFS. What the execute phase of an instruction can do, said once, and what interrupt entry and fetch leave as they
were. -/

namespace Sys2Proof.Machine

/-- The instructions R37 lets write FLAGS: those of class 2, 3 and 4, POPF and RETI. -/
def MayWriteFlags (i : Instr) : Prop :=
  classOf (i.encode.headD 0) ∈ ([2, 3, 4] : List (BitVec 4)) ∨ i = .popf ∨ i = .reti

/-- The states the execute phase of `i` can reach from `s`: it may write registers and bytes, FLAGS if R37 lets it, the I/O
register that an OUT names (R251), and the halted flag if it is HALT (R39). No update of `irq_pending`, `irq_vector`, the tick
or the bank counts is among them. -/
inductive ExecReach (i : Instr) (s : State) : State → Prop
  | refl : ExecReach i s s
  | setReg {t : State} (x : RegIx) (v : Word) (h : ExecReach i s t) : ExecReach i s (t.setReg x v)
  | memWrite8 {t : State} (a : Word) (v : Byte) (h : ExecReach i s t) : ExecReach i s (t.memWrite8 a v)
  | setFlags {t : State} (hi : MayWriteFlags i) (f : Flags) (h : ExecReach i s t) : ExecReach i s (t.setFlags f)
  | setIo {t : State} {x : RegIx} {p r : IoIx} (hi : i = .ioOut x p r) (v : Word) (h : ExecReach i s t) :
      ExecReach i s (t.setIo p r v)
  | setHalted {t : State} (hi : i = .halt) (h : ExecReach i s t) : ExecReach i s t.setHalted

namespace ExecReach

variable {i : Instr} {s t : State}

/-! ## The shared operations of Ops and Operands as updates -/

theorem memWrite16 (a v : Word) (h : ExecReach i s t) : ExecReach i s (t.memWrite16 a v) :=
  .memWrite8 _ _ (.memWrite8 _ _ h)

theorem push16 (v : Word) (h : ExecReach i s t) : ExecReach i s (t.push16 v) :=
  .memWrite16 _ _ (.setReg _ _ h)

theorem jumpIf (c : Cond) (v : Word) : ExecReach i s (s.jumpIf c v) := by
  unfold State.jumpIf
  split
  · exact .setReg pcIx v .refl
  · exact .refl

theorem callIf (c : Cond) (v : Word) : ExecReach i s (s.callIf c v) := by
  unfold State.callIf
  split
  · exact .setReg pcIx v (.push16 _ .refl)
  · exact .refl

theorem putFlags (hi : MayWriteFlags i) (r : AluResult) : ExecReach i s (s.putFlags r) :=
  .setFlags hi _ .refl

theorem putReg (hi : MayWriteFlags i) (x : RegIx) (r : AluResult) : ExecReach i s (s.putReg x r) :=
  .setFlags hi _ (.setReg x _ .refl)

theorem putAcc (hi : MayWriteFlags i) (r : AluResult) : ExecReach i s (s.putAcc r) :=
  .putReg hi accIx r

theorem putAcc? (hi : MayWriteFlags i) (r : Option AluResult) : ExecReach i s (s.putAcc? r) :=
  match r with
  | none => .refl
  | some r => .putAcc hi r

theorem interruptReturn (hi : MayWriteFlags i) : ExecReach i s s.interruptReturn := by
  rw [State.interruptReturn_eq]
  exact .setReg _ _ (.setReg _ _ (.setFlags hi _ (.setReg _ _ .refl)))

/-! ## What every reached state keeps -/

theorem wf (h : ExecReach i s t) (hs : s.wf) : t.wf := by
  induction h with
  | refl => exact hs
  | setReg _ _ _ ih | setFlags _ _ _ ih | setIo _ _ _ ih | setHalted _ _ ih => exact ih
  | memWrite8 a v _ ih => exact State.wf_memWrite8 ih a v

theorem tick (h : ExecReach i s t) : t.tick = s.tick := by
  induction h with
  | refl => rfl
  | setReg _ _ _ ih | setFlags _ _ _ ih | setIo _ _ _ ih | setHalted _ _ ih => exact ih
  | memWrite8 a v _ ih => rw [State.tick_memWrite8, ih]

theorem flags (h : ExecReach i s t) (hi : ¬ MayWriteFlags i) : t.flags = s.flags := by
  induction h with
  | refl => rfl
  | setReg _ _ _ ih | setIo _ _ _ ih | setHalted _ _ ih => exact ih
  | memWrite8 a v _ ih => rw [State.flags_memWrite8, ih]
  | setFlags hw => exact absurd hw hi

theorem halted (h : ExecReach i s t) (hi : i ≠ .halt) : t.halted = s.halted := by
  induction h with
  | refl => rfl
  | setReg _ _ _ ih | setFlags _ _ _ ih | setIo _ _ _ ih => exact ih
  | memWrite8 a v _ ih => rw [State.halted_memWrite8, ih]
  | setHalted hh => exact absurd hh hi

end ExecReach

/-! ## The execute phase -/

/-- Every instruction completes, in a state it can reach. -/
theorem exec_reach (i : Instr) (s : State) : ∃ t, exec i s = .next t ∧ ExecReach i s t := by
  cases i with
  | nop | undefSystem | undefMove | undefAlu | undefAluImm | undefUnary | undefLoadStore | undefStack | undefClassD
  | undefClassE | undefClassF => exact ⟨_, rfl, .refl⟩
  | halt => exact ⟨_, rfl, .setHalted rfl (.setReg _ _ .refl)⟩
  | mov | movi | ld | ldb | lda | ldba | ioIn => exact ⟨_, rfl, .setReg _ _ .refl⟩
  | ret | pop => exact ⟨_, rfl, .setReg _ _ (.setReg _ _ .refl)⟩
  | reti => exact ⟨_, rfl, .interruptReturn (.inr (.inr rfl))⟩
  | popf => exact ⟨_, rfl, .setFlags (.inr (.inl rfl)) _ (.setReg _ _ .refl)⟩
  | add | sub | mul | and | or | xor | addi | subi | muli | andi | ori | xori =>
    exact ⟨_, rfl, .putAcc (.inl (by simp [Instr.encode])) _⟩
  | div | mod | divi | modi => exact ⟨_, rfl, .putAcc? (.inl (by simp [Instr.encode])) _⟩
  | cmp | tst | cmpi | tsti => exact ⟨_, rfl, .putFlags (.inl (by simp [Instr.encode])) _⟩
  | inc | dec | not | neg | shl | shr | sar | shli | shri | sari =>
    exact ⟨_, rfl, .putReg (.inl (by simp [Instr.encode])) _ _⟩
  | st | sta | stia => exact ⟨_, rfl, .memWrite16 _ _ .refl⟩
  | stb | stba => exact ⟨_, rfl, .memWrite8 _ _ .refl⟩
  | push | pushf => exact ⟨_, rfl, .push16 _ .refl⟩
  | jmpr | jeqr | jner | jcsr | jccr | jvsr | jvcr | jgtr | jltr | jger | jler | jhir | jlsr | jmir | jplr | jnvr
  | jmp | jeq | jne | jcs | jcc | jvs | jvc | jgt | jlt | jge | jle | jhi | jls | jmi | jpl | jnv =>
    exact ⟨_, rfl, .jumpIf _ _⟩
  | callr | calleqr | callner | callcsr | callccr | callvsr | callvcr | callgtr | callltr | callger | calller | callhir
  | calllsr | callmir | callplr | callnvr | call | calleq | callne | callcs | callcc | callvs | callvc | callgt | calllt
  | callge | callle | callhi | callls | callmi | callpl | callnv => exact ⟨_, rfl, .callIf _ _⟩
  | ioOut => exact ⟨_, rfl, .setIo rfl _ .refl⟩

/-- Whatever state an instruction completes in is one it can reach. -/
theorem ExecReach.of_exec {i : Instr} {s t : State} (h : exec i s = .next t) : ExecReach i s t := by
  obtain ⟨u, hu, hr⟩ := exec_reach i s
  obtain rfl : u = t := Host.Outcome.next.inj (hu.symm.trans h)
  exact hr

/-- From a state that is not halted, exactly HALT leaves a halted one (R39, R121). -/
theorem halted_of_exec_iff {i : Instr} {s t : State} (hs : s.halted = false) (h : exec i s = .next t) :
    t.halted = true ↔ i = .halt := by
  constructor
  · intro ht
    by_contra hi
    rw [(ExecReach.of_exec h).halted hi, hs] at ht
    cases ht
  · rintro rfl
    obtain rfl : (s.setPc (s.pc - 2#16)).setHalted = t := Host.Outcome.next.inj h
    rfl

/-! ## Interrupt entry and fetch -/

@[simp] theorem State.flags_interruptEntry (s : State) : s.interruptEntry.flags = s.flags := by
  simp [State.interruptEntry_eq]

theorem State.wf_interruptEntry {s : State} (h : s.wf) : s.interruptEntry.wf := by
  rw [State.interruptEntry_eq, State.wf_setIrq, State.wf_setReg]
  exact State.wf_push16 (State.wf_push16 h _) _

theorem State.wf_beginCycle {s : State} (h : s.wf) : s.beginCycle.wf := by
  rcases s.beginCycle_cases with ⟨-, e⟩ | ⟨-, e⟩ <;> rw [e]
  · exact h
  · exact State.wf_interruptEntry h

@[simp] theorem State.halted_beginCycle (s : State) : s.beginCycle.halted = s.halted := by
  rcases s.beginCycle_cases with ⟨-, e⟩ | ⟨-, e⟩ <;> simp [e, State.interruptEntry_eq]

@[simp] theorem State.tick_beginCycle (s : State) : s.beginCycle.tick = s.tick := by
  rcases s.beginCycle_cases with ⟨-, e⟩ | ⟨-, e⟩ <;> simp [e, State.interruptEntry_eq]

theorem State.wf_fetchDecode {s : State} (h : s.wf) : s.fetchDecode.2.wf := by
  obtain ⟨pc, e⟩ := s.fetchDecode_snd
  rwa [e, State.wf_setReg]

@[simp] theorem State.halted_fetchDecode (s : State) : s.fetchDecode.2.halted = s.halted := by
  obtain ⟨pc, e⟩ := s.fetchDecode_snd
  rw [e, State.halted_setReg]

@[simp] theorem State.tick_fetchDecode (s : State) : s.fetchDecode.2.tick = s.tick := by
  obtain ⟨pc, e⟩ := s.fetchDecode_snd
  rw [e, State.tick_setReg]

/-! ## The end of the cycle -/

theorem State.wf_endCycle {s : State} (h : s.wf) : s.endCycle.wf := by
  rw [State.endCycle_eq, State.wf_setTick]
  exact (PeripheralFrame.peripheralSteps s).wf h

@[simp] theorem State.halted_endCycle (s : State) : s.endCycle.halted = s.halted := by
  rw [State.endCycle_eq, State.halted_setTick, (PeripheralFrame.peripheralSteps s).halted]

@[simp] theorem State.tick_endCycle (s : State) : s.endCycle.tick = s.tick + 1#32 := by
  rw [State.endCycle_eq, State.tick_setTick]

end Sys2Proof.Machine
end

section
/-! PROOFS. The 16-bit image of FLAGS, bit by bit (R36). -/

namespace Sys2Proof.Machine

/-- The bits of the image: V, C, Z, N from bit 0 up, and zero from bit 4 on (R36). -/
theorem Flags.getLsbD_image (f : Flags) (i : Nat) : f.image.getLsbD i = [f.v, f.c, f.z, f.n].getD i false := by
  have h : f.image.getLsbD i = (0#12 ++ BitVec.ofBool f.n ++ BitVec.ofBool f.z ++ BitVec.ofBool f.c ++
    BitVec.ofBool f.v : BitVec (12 + 1 + 1 + 1 + 1)).getLsbD i := rfl
  simp only [h, BitVec.getLsbD_append, BitVec.getLsbD_ofBool]
  match i with
  | 0 | 1 | 2 | 3 | _ + 4 => simp

@[simp] theorem Flags.ofImage_image (f : Flags) : Flags.ofImage f.image = f := by
  simp only [Flags.ofImage, Flags.getLsbD_image]
  rfl

/-- FLAGS taken from an image keeps its low four bits and no other (R36). -/
theorem Flags.image_ofImage (w : Word) : (Flags.ofImage w).image = w &&& 0x000F := by
  apply BitVec.eq_of_getLsbD_eq
  have hmask : ∀ i < 16, (0x000F : Word).getLsbD i = decide (i < 4) := by decide
  intro i hi
  rw [Flags.getLsbD_image, BitVec.getLsbD_and, hmask i hi]
  match i with
  | 0 | 1 | 2 | 3 | _ + 4 => simp [Flags.ofImage]

/-- The image is below 16: it is its own low four bits (R36). -/
theorem Flags.toNat_image_lt (f : Flags) : f.image.toNat < 16 := by
  have h : f.image = f.image &&& 0x000F := by
    rw [← Flags.image_ofImage, Flags.ofImage_image]
  rw [h, BitVec.toNat_and]
  exact Nat.lt_succ_of_le Nat.and_le_right

end Sys2Proof.Machine
end

section
/-! PROOFS. The obligations of 10_state.md. -/

namespace Sys2Proof.Machine

/-- Settles O60, from the bits of the image. -/
theorem flagsImageRoundTrips : Obligations.FlagsImageRoundTrips :=
  ⟨fun f => ⟨f.ofImage_image, f.toNat_image_lt, f.getLsbD_image 3, f.getLsbD_image 2, f.getLsbD_image 1,
    f.getLsbD_image 0⟩, Flags.image_ofImage⟩

/-- Settles O41: an instruction that R37 does not list reaches no state with other FLAGS, and interrupt entry only pushes
them. -/
theorem flagPreservingInstructionsKeepFlags : Obligations.FlagPreservingInstructionsKeepFlags := by
  refine ⟨fun i s t hclass hpopf hreti h => (ExecReach.of_exec h).flags ?_, State.flags_interruptEntry⟩
  rintro (hc | rfl | rfl)
  · exact hclass hc
  · exact hpopf rfl
  · exact hreti rfl

/-- Settles O40, by what each part of a cycle does to the halted flag and the tick. -/
theorem onlyHaltHaltsAndEveryOtherCycleTicks : Obligations.OnlyHaltHaltsAndEveryOtherCycleTicks := by
  refine ⟨fun s hs => by simp [step, hs], fun s t hs h => ?_⟩
  obtain ⟨hs', -⟩ | ⟨-, u, hu, rfl⟩ := step_cases h
  · simp [hs] at hs'
  have htick : u.tick = s.tick := by simpa using (ExecReach.of_exec hu).tick
  rw [State.halted_endCycle, State.tick_endCycle, htick]
  exact ⟨halted_of_exec_iff (by simpa using hs) hu, rfl⟩

/-- Settles O37: each part of a cycle keeps the invariant. -/
theorem stepKeepsTheInvariant : Obligations.StepKeepsTheInvariant := by
  intro s t hs h
  obtain ⟨-, rfl⟩ | ⟨-, u, hu, rfl⟩ := step_cases h
  · exact hs
  have hfetched : s.beginCycle.fetchDecode.2.wf := State.wf_fetchDecode (State.wf_beginCycle hs)
  exact State.wf_endCycle ((ExecReach.of_exec hu).wf hfetched)

end Sys2Proof.Machine
end

section
/-! PROOFS. The mapping record, and what a byte access does in each case of the translation (R62, R63). -/

namespace Sys2Proof.Machine

/-! ## Translation -/

theorem kindReg_eq (a : Word) : kindReg a = if a.getLsbD 15 then 2 else 0 := by
  simp [kindReg, BitVec.msb_eq_getLsbD_last]

theorem bankReg_eq (a : Word) : bankReg a = if a.getLsbD 15 then 3 else 1 := by
  simp [bankReg, BitVec.msb_eq_getLsbD_last]

/-- The kind a kind code names: 0 is ROM, 1 DISK, 2 RAM, and any other code none (R45, R62). -/
theorem kindOfCode_cases (c : Word) :
    (c = 0 ∧ kindOfCode c = some .rom) ∨ (c = 1 ∧ kindOfCode c = some .disk) ∨ (c = 2 ∧ kindOfCode c = some .ram) ∨
      (c ≠ 0 ∧ c ≠ 1 ∧ c ≠ 2 ∧ kindOfCode c = none) := by
  by_cases h0 : c = 0
  · exact .inl ⟨h0, by rw [h0]; rfl⟩
  by_cases h1 : c = 1
  · exact .inr (.inl ⟨h1, by rw [h1]; rfl⟩)
  by_cases h2 : c = 2
  · exact .inr (.inr (.inl ⟨h2, by rw [h2]; rfl⟩))
  · exact .inr (.inr (.inr ⟨h0, h1, h2, by rw [kindOfCode, if_neg h0, if_neg h1, if_neg h2]⟩))

/-- The locations of a half whose kind code names a store: its bank must be one the machine has (R62). -/
theorem State.translate_of_kind {s : State} {a : Word} {k : StoreKind}
    (h : kindOfCode (s.ioReg mmuPort (kindReg a)) = some k) :
    s.translate a =
      if (s.ioReg mmuPort (bankReg a)).toNat < s.bankCount k then
        some ⟨k, (s.ioReg mmuPort (bankReg a)).toNat, a.extractLsb' 0 15⟩
      else none := by
  simp only [State.translate, h]

/-- A half whose kind code names no store is unmapped (R62). -/
theorem State.translate_of_no_kind {s : State} {a : Word}
    (h : kindOfCode (s.ioReg mmuPort (kindReg a)) = none) : s.translate a = none := by
  simp only [State.translate, h]

/-- States with one translation map the same locations. -/
theorem State.mapped_congr {s t : State} (h : ∀ a, t.translate a = s.translate a) (l : Location) :
    t.mapped l ↔ s.mapped l := by
  simp only [State.mapped, h]

/-! ## Byte accesses -/

theorem StoreKind.writable_iff (k : StoreKind) : k.writable = true ↔ k ≠ .rom := by
  cases k <;> decide

theorem State.memRead8_of_unmapped {s : State} {a : Word} (h : s.translate a = none) : s.memRead8 a = 0 := by
  simp [State.memRead8, h]

theorem State.memRead8_of_mapped {s : State} {a : Word} {l : Location} (h : s.translate a = some l) :
    s.memRead8 a = s.byteAt l := by
  simp [State.memRead8, h]

/-- A write that cannot reach a writable store is discarded (R63). -/
theorem State.memWrite8_of_not_canWrite {s : State} {a : Word} (h : s.canWrite a = false) (v : Byte) :
    s.memWrite8 a v = s := by
  obtain ⟨-, e⟩ | ⟨-, -, -, hw, -⟩ := s.memWrite8_cases a v
  · exact e
  · simp [h] at hw

theorem State.canWrite_of_mapped {s : State} {a : Word} {l : Location} (h : s.translate a = some l) :
    s.canWrite a = l.kind.writable := by
  simp [State.canWrite, h]

end Sys2Proof.Machine
end

section
/-! PROOFS. What the parts of a cycle leave of the I/O registers, the mapping, ROM and the bytes of unmapped banks. -/

namespace Sys2Proof.Machine

/-! ## ROM and the bank counts -/

theorem ExecReach.rom {i : Instr} {s t : State} (h : ExecReach i s t) : t.rom = s.rom := by
  induction h with
  | refl => rfl
  | setReg _ _ _ ih | setFlags _ _ _ ih | setIo _ _ _ ih | setHalted _ _ ih => exact ih
  | memWrite8 a v _ ih => rw [State.rom_memWrite8, ih]

theorem ExecReach.banks {i : Instr} {s t : State} (h : ExecReach i s t) : t.banks = s.banks := by
  induction h with
  | refl => rfl
  | setReg _ _ _ ih | setFlags _ _ _ ih | setIo _ _ _ ih | setHalted _ _ ih => exact ih
  | memWrite8 a v _ ih => rw [State.banks_memWrite8, ih]

@[simp] theorem State.rom_beginCycle (s : State) : s.beginCycle.rom = s.rom := by
  rcases s.beginCycle_cases with ⟨-, e⟩ | ⟨-, e⟩ <;> simp [e, State.interruptEntry_eq]

@[simp] theorem State.rom_fetchDecode (s : State) : s.fetchDecode.2.rom = s.rom := by
  obtain ⟨pc, e⟩ := s.fetchDecode_snd
  rw [e, State.rom_setReg]

@[simp] theorem State.rom_endCycle (s : State) : s.endCycle.rom = s.rom := by
  rw [State.endCycle_eq, State.rom_setTick, (PeripheralFrame.peripheralSteps s).rom]

@[simp] theorem State.banks_endCycle (s : State) : s.endCycle.banks = s.banks := by
  rw [State.endCycle_eq, State.banks_setTick, (PeripheralFrame.peripheralSteps s).banks]

/-! ## A phase that writes no I/O register -/

/-- The second state differs from the first in no I/O register, hence not in the mapping, and in no byte of a bank that is
not mapped (R62, R63). -/
structure UnmappedFrame (s t : State) : Prop where
  io : SameIo s t
  banks : t.banks = s.banks
  bytes : ∀ l, ¬ s.mapped l → t.byteAt l = s.byteAt l

namespace UnmappedFrame

variable {s t u : State}

theorem refl (s : State) : UnmappedFrame s s := ⟨fun _ _ => rfl, rfl, fun _ _ => rfl⟩

theorem mapped_iff (h : UnmappedFrame s t) (l : Location) : t.mapped l ↔ s.mapped l :=
  State.mapped_congr (State.translate_congr (h.io mmuPort) h.banks) l

theorem trans (h : UnmappedFrame s t) (h' : UnmappedFrame t u) : UnmappedFrame s u where
  io p r := (h'.io p r).trans (h.io p r)
  banks := h'.banks.trans h.banks
  bytes l hl := (h'.bytes l (mt (h.mapped_iff l).mp hl)).trans (h.bytes l hl)

theorem setReg (s : State) (x : RegIx) (v : Word) : UnmappedFrame s (s.setReg x v) :=
  ⟨fun _ _ => rfl, rfl, fun l _ => s.byteAt_setReg x v l⟩

theorem setFlags (s : State) (f : Flags) : UnmappedFrame s (s.setFlags f) :=
  ⟨fun _ _ => rfl, rfl, fun l _ => s.byteAt_setFlags f l⟩

theorem setHalted (s : State) : UnmappedFrame s s.setHalted :=
  ⟨fun _ _ => rfl, rfl, fun l _ => s.byteAt_setHalted l⟩

theorem setIrq (s : State) (b : Bool) (v : Word) : UnmappedFrame s (s.setIrq b v) :=
  ⟨fun _ _ => rfl, rfl, fun l _ => s.byteAt_setIrq b v l⟩

theorem memWrite8 (s : State) (a : Word) (v : Byte) : UnmappedFrame s (s.memWrite8 a v) :=
  ⟨s.ioReg_memWrite8 a v, s.banks_memWrite8 a v, (PeripheralFrame.memWrite8 s a v).unmapped⟩

theorem push16 (s : State) (v : Word) : UnmappedFrame s (s.push16 v) :=
  ((setReg s _ _).trans (memWrite8 _ _ _)).trans (memWrite8 _ _ _)

theorem interruptEntry (s : State) : UnmappedFrame s s.interruptEntry := by
  rw [State.interruptEntry_eq]
  exact (((push16 s _).trans (push16 _ _)).trans (setReg _ _ _)).trans (setIrq _ _ _)

theorem beginCycle (s : State) : UnmappedFrame s s.beginCycle := by
  rcases s.beginCycle_cases with ⟨-, e⟩ | ⟨-, e⟩ <;> rw [e]
  · exact refl s
  · exact interruptEntry s

/-- All of a cycle that comes before the execute phase. -/
theorem fetchDecode_beginCycle (s : State) : UnmappedFrame s s.beginCycle.fetchDecode.2 := by
  obtain ⟨pc, e⟩ := s.beginCycle.fetchDecode_snd
  rw [e]
  exact (beginCycle s).trans (setReg _ _ _)

end UnmappedFrame

/-- Every instruction but OUT keeps the frame: it has no other way to an I/O register (R60, R251). -/
theorem ExecReach.unmappedFrame {i : Instr} {s t : State} (h : ExecReach i s t) (hi : ∀ x p r, i ≠ .ioOut x p r) :
    UnmappedFrame s t := by
  induction h with
  | refl => exact .refl s
  | setReg x v _ ih => exact ih.trans (.setReg _ x v)
  | memWrite8 a v _ ih => exact ih.trans (.memWrite8 _ a v)
  | setFlags _ f _ ih => exact ih.trans (.setFlags _ f)
  | setIo hout => exact absurd hout (hi _ _ _)
  | setHalted _ _ ih => exact ih.trans (.setHalted _)

/-! ## The execute phase and the end of the cycle -/

/-- The execute phase changes only bytes of banks mapped when it begins: an OUT, which may change the mapping, changes no
byte (R251). -/
theorem byteAt_of_exec {i : Instr} {s t : State} (h : exec i s = .next t) {l : Location} (hl : ¬ s.mapped l) :
    t.byteAt l = s.byteAt l := by
  by_cases hi : ∃ x p r, i = .ioOut x p r
  · obtain ⟨x, p, r, rfl⟩ := hi
    obtain rfl : s.setIo p r (s.reg x) = t := Host.Outcome.next.inj h
    exact s.byteAt_setIo p r _ l
  · push Not at hi
    exact ((ExecReach.of_exec h).unmappedFrame hi).bytes l hl

theorem State.ioReg_endCycle (s : State) {p : IoIx} (hp : p.val < 4 ∨ 9 ≤ p.val) (r : IoIx) :
    s.endCycle.ioReg p r = s.ioReg p r := by
  rw [State.endCycle_eq, State.ioReg_setTick, (PeripheralFrame.peripheralSteps s).port p r hp]

theorem State.mapped_endCycle (s : State) (l : Location) : s.endCycle.mapped l ↔ s.mapped l :=
  State.mapped_congr (State.translate_congr (s.ioReg_endCycle (p := mmuPort) (.inl (by decide))) s.banks_endCycle) l

/-- The peripheral steps, the DMA transfer among them, change only bytes of mapped banks (R353). -/
theorem State.byteAt_endCycle {s : State} {l : Location} (hl : ¬ s.mapped l) : s.endCycle.byteAt l = s.byteAt l := by
  rw [State.endCycle_eq, State.byteAt_setTick, (PeripheralFrame.peripheralSteps s).unmapped l hl]

end Sys2Proof.Machine
end

section
/-! PROOFS. The obligations of 20_memory.md. -/

namespace Sys2Proof.Machine

/-- Settles O32, by the four cases of the half's kind code. -/
theorem translationFollowsTheMappingRecord : Obligations.TranslationFollowsTheMappingRecord := by
  intro s a kind bank
  have hkind : s.ioReg mmuPort (kindReg a) = kind := congrArg (s.ioReg mmuPort) (kindReg_eq a)
  have hbank : (s.ioReg mmuPort (bankReg a)).toNat = bank := by
    rw [bankReg_eq]
    rfl
  obtain ⟨hc, hk⟩ | ⟨hc, hk⟩ | ⟨hc, hk⟩ | ⟨h0, h1, h2, hk⟩ := kindOfCode_cases kind
  · simp [State.translate_of_kind (hkind ▸ hk), hbank, hc, State.bankCount]
  · simp [State.translate_of_kind (hkind ▸ hk), hbank, hc, State.bankCount]
  · simp [State.translate_of_kind (hkind ▸ hk), hbank, hc, State.bankCount]
  · rw [State.translate_of_no_kind (hkind ▸ hk), if_neg (h0 ·.1), if_neg (h1 ·.1), if_neg (h2 ·.1)]

/-- Settles O33, by the cases of the translation. -/
theorem byteAccessesThroughTheMmu : Obligations.ByteAccessesThroughTheMmu := by
  intro s a v
  refine ⟨fun h => ⟨State.memRead8_of_unmapped h, State.memWrite8_of_not_canWrite (by simp [State.canWrite, h]) v⟩,
    fun l h => ⟨State.memRead8_of_mapped h, fun hrom => ?_, fun hrom => ?_⟩⟩
  · exact State.memWrite8_of_not_canWrite (by rw [State.canWrite_of_mapped h, hrom]; rfl) v
  · have hw : l.kind.writable = true := l.kind.writable_iff.mpr hrom
    obtain ⟨-, hregs, hflags, hio, hhidden, -⟩ := s.memWrite8_spec a v
    refine ⟨?_, fun l' hl' => ?_, hregs, hflags, hio, hhidden⟩
    · rw [State.byteAt_memWrite8, if_pos ⟨h, hw⟩]
    · rw [State.byteAt_memWrite8, if_neg fun hl => hl' (Option.some.inj (hl.1.symm.trans h))]

/-- Settles O34, by what a 16-bit write stores. -/
theorem wordAccessesAreLittleEndianPairs : Obligations.WordAccessesAreLittleEndianPairs := by
  intro s a v
  refine ⟨rfl, fun h0 h1 => ?_⟩
  have hstored : WordStored s (s.memWrite16 a v) a v := (s.memWrite16_spec a v).1
  exact ⟨hstored.1.trans (if_pos h0), hstored.2.trans (if_pos h1), hstored.memRead16 h0 h1⟩

/-- Settles O35: no part of a cycle writes ROM or the bank counts. -/
theorem romIsNeverWritten : Obligations.RomIsNeverWritten := by
  intro s t h
  obtain ⟨-, rfl⟩ | ⟨-, u, hu, rfl⟩ := step_cases h
  · exact ⟨rfl, rfl⟩
  have hexec := ExecReach.of_exec hu
  rw [State.rom_endCycle, State.banks_endCycle, hexec.rom, hexec.banks, State.rom_fetchDecode, State.rom_beginCycle]
  exact ⟨rfl, (UnmappedFrame.fetchDecode_beginCycle s).banks⟩

/-- Settles O36: only an OUT changes the mapping, so what is written before and in the execute phase is mapped before the
step, and what the peripherals write is mapped after it. -/
theorem unmappedBanksKeepTheirBytes : Obligations.UnmappedBanksKeepTheirBytes := by
  intro s t l h hs ht
  obtain ⟨-, rfl⟩ | ⟨-, u, hu, rfl⟩ := step_cases h
  · rfl
  have hfetch := UnmappedFrame.fetchDecode_beginCycle s
  have hfetched : ¬ s.beginCycle.fetchDecode.2.mapped l := mt (hfetch.mapped_iff l).mp hs
  have hexecuted : ¬ u.mapped l := mt (u.mapped_endCycle l).mpr ht
  calc u.endCycle.byteAt l
      = u.byteAt l := State.byteAt_endCycle hexecuted
    _ = s.beginCycle.fetchDecode.2.byteAt l := byteAt_of_exec hu hfetched
    _ = s.byteAt l := hfetch.bytes l hs

/-- Settles O42: no instruction but OUT reaches an I/O register, and the peripherals write their own ports. -/
theorem onlyOutWritesIoRegisters : Obligations.OnlyOutWritesIoRegisters := by
  refine ⟨fun i s t hi h => ((ExecReach.of_exec h).unmappedFrame hi).io,
    fun s => (UnmappedFrame.interruptEntry s).io, fun s t hi h p r hp => ?_⟩
  obtain ⟨-, rfl⟩ | ⟨-, u, hu, rfl⟩ := step_cases h
  · rfl
  have hexec := (ExecReach.of_exec hu).unmappedFrame hi
  calc u.endCycle.ioReg p r
      = u.ioReg p r := u.ioReg_endCycle hp r
    _ = s.beginCycle.fetchDecode.2.ioReg p r := hexec.io p r
    _ = s.ioReg p r := (UnmappedFrame.fetchDecode_beginCycle s).io p r

end Sys2Proof.Machine
end

section
/-! PROOFS. What a word can decode to: which words are undefined (R103), and how many bytes an instruction takes (R95)
and a cycle fetches (R96). -/

namespace Sys2Proof.Machine

/-! ## The undefined words -/

/-- The words R103 lists, by their class and `t` fields. -/
def UndefWord (w : Word) : Prop :=
  let c := (classOf w).toNat
  let t := (tOf w).toNat
  (c = 0 ∧ 4 ≤ w.toNat) ∨ (c = 1 ∧ 2 ≤ t) ∨ ((c = 2 ∨ c = 3 ∨ c = 4) ∧ 10 ≤ t) ∨ (c = 5 ∧ 9 ≤ t) ∨ (c = 6 ∧ 4 ≤ t) ∨
    13 ≤ c

/-- No undefined word takes an immediate (R95, R97). -/
theorem UndefWord.hasImm_eq_false {w : Word} (h : UndefWord w) : hasImm (classOf w) (tOf w) = false := by
  rw [← Bool.not_eq_true, hasImm_iff]
  unfold UndefWord at h
  omega

/-- No undefined word takes an address (R95, R97). -/
theorem UndefWord.hasAddr_eq_false {w : Word} (h : UndefWord w) : hasAddr (classOf w) (tOf w) = false := by
  rw [← Bool.not_eq_true, hasAddr_iff]
  unfold UndefWord at h
  omega

/-- An undefined word is a whole instruction (R97). -/
theorem UndefWord.decodesTo {w : Word} (h : UndefWord w) : DecodesTo [w] (decodeWords w 0 0) :=
  decodesTo_one h.hasImm_eq_false h.hasAddr_eq_false rfl

/-! ## Defined and undefined terms -/

theorem wf_undefSystem_iff (low : BitVec 12) : (Instr.undefSystem low).wf = true ↔ 4 ≤ low.toNat := by
  simp [Instr.wf, BitVec.le_def]

theorem wf_undefMove_iff (t : BitVec 4) : (Instr.undefMove t).wf = true ↔ 2 ≤ t.toNat := by
  simp [Instr.wf, BitVec.le_def]

theorem wf_undefAlu_iff (t : BitVec 4) : (Instr.undefAlu t).wf = true ↔ 10 ≤ t.toNat := by
  simp [Instr.wf, BitVec.le_def]

theorem wf_undefAluImm_iff (t : BitVec 4) : (Instr.undefAluImm t).wf = true ↔ 10 ≤ t.toNat := by
  simp [Instr.wf, BitVec.le_def]

theorem wf_undefUnary_iff (t : BitVec 4) : (Instr.undefUnary t).wf = true ↔ 10 ≤ t.toNat := by
  simp [Instr.wf, BitVec.le_def]

theorem wf_undefLoadStore_iff (t : BitVec 4) : (Instr.undefLoadStore t).wf = true ↔ 9 ≤ t.toNat := by
  simp [Instr.wf, BitVec.le_def]

theorem wf_undefStack_iff (t : BitVec 4) : (Instr.undefStack t).wf = true ↔ 4 ≤ t.toNat := by
  simp [Instr.wf, BitVec.le_def]

/-- A well-formed term that is none of the undefined encodings. -/
def IsDefined (i : Instr) : Prop := i.wf = true ∧ ¬ IsUndefined i

/-- A well-formed term of the undefined encodings. -/
def IsUndefinedForm (i : Instr) : Prop := i.wf = true ∧ IsUndefined i

theorem exec_of_isUndefined {i : Instr} (h : IsUndefined i) (s : State) : exec i s = .next s := by
  rcases h with ⟨_, rfl⟩ | ⟨_, rfl⟩ | ⟨_, rfl⟩ | ⟨_, rfl⟩ | ⟨_, rfl⟩ | ⟨_, rfl⟩ | ⟨_, rfl⟩ | rfl | rfl | rfl <;> rfl

/-! ## The decoder of each class -/

theorem decodeSystem_of_le {w : Word} (h : 4 ≤ w.toNat) : decodeSystem w = .undefSystem (w.extractLsb' 0 12) := by
  unfold decodeSystem
  split
  case h_5 => rfl
  all_goals omega

/-- Class 0 (R99): a word of the class is its own low twelve bits. -/
theorem decodeSystem_cases {w : Word} (hc : (classOf w).toNat = 0) :
    (w.toNat < 4 ∧ IsDefined (decodeSystem w)) ∨ (4 ≤ w.toNat ∧ IsUndefinedForm (decodeSystem w)) := by
  rw [toNat_classOf] at hc
  have hlow : (w.extractLsb' 0 12).toNat = w.toNat := by
    rw [BitVec.extractLsb'_toNat, Nat.shiftRight_zero]
    omega
  unfold decodeSystem
  split
  case h_5 =>
    have hle : 4 ≤ w.toNat := by grind
    exact .inr ⟨hle, (wf_undefSystem_iff _).mpr (hlow ▸ hle), by simp [IsUndefined]⟩
  all_goals exact .inl ⟨by omega, rfl, by simp [IsUndefined]⟩

/-- The word of an undefined class-0 encoding is its low twelve bits (R99). -/
theorem decodesTo_undefSystem {low : BitVec 12} (h : 4 ≤ low.toNat) : DecodesTo [0#4 ++ low] (.undefSystem low) := by
  have hclass : classOf (0#4 ++ low) = 0#4 := Laws.classOf_low low
  have hnum : (0#4 ++ low : Word).toNat = low.toNat := (BitVec.toNat_append 0#4 low).trans (by simp)
  have hlow : (0#4 ++ low : Word).extractLsb' 0 12 = low := BitVec.extractLsb'_append_eq_right
  have hundef : UndefWord (0#4 ++ low) := .inl ⟨congrArg BitVec.toNat hclass, hnum ▸ h⟩
  have hdec : decodeWords (0#4 ++ low) 0 0 = .undefSystem low := by
    have hsys := decodeSystem_of_le (hnum ▸ h)
    rw [hlow] at hsys
    simpa [decodeWords, hclass] using hsys
  exact hdec ▸ hundef.decodesTo

/-- The decoder `f` of a class answers defined terms for `t` below `k`, and from `k` on the undefined term `u t`. -/
def DefinedBelow (k : Nat) (u f : BitVec 4 → Instr) : Prop :=
  ∀ t, (t.toNat < k ∧ IsDefined (f t)) ∨ (k ≤ t.toNat ∧ f t = u t ∧ IsUndefinedForm (u t))

theorem DefinedBelow.of_lt {k : Nat} {u f : BitVec 4 → Instr} (h : DefinedBelow k u f) {t : BitVec 4}
    (ht : t.toNat < k) : IsDefined (f t) := by
  obtain ⟨-, hf⟩ | ⟨hle, -⟩ := h t
  · exact hf
  · omega

theorem DefinedBelow.of_le {k : Nat} {u f : BitVec 4 → Instr} (h : DefinedBelow k u f) {t : BitVec 4}
    (ht : k ≤ t.toNat) : f t = u t ∧ IsUndefinedForm (u t) := by
  obtain ⟨hlt, -⟩ | ⟨-, hf⟩ := h t
  · omega
  · exact hf

theorem DefinedBelow.decodesTo {k : Nat} {u f : BitVec 4 → Instr} (hf : DefinedBelow k u f) {w : Word} {t : BitVec 4}
    (ht : k ≤ t.toNat) (hw : UndefWord w) (hdec : decodeWords w 0 0 = f t) : DecodesTo [w] (u t) := by
  rw [← (hf.of_le ht).1, ← hdec]
  exact hw.decodesTo

theorem decodeMove_definedBelow (x y : RegIx) (imm : Word) : DefinedBelow 2 .undefMove (decodeMove · x y imm) := by
  intro t
  unfold decodeMove
  beta_reduce
  split
  case h_3 =>
    have hle : 2 ≤ t.toNat := by grind
    exact .inr ⟨hle, rfl, (wf_undefMove_iff t).mpr hle, by simp [IsUndefined]⟩
  all_goals exact .inl ⟨by omega, rfl, by simp [IsUndefined]⟩

theorem decodeAlu_definedBelow (x y : RegIx) : DefinedBelow 10 .undefAlu (decodeAlu · x y) := by
  intro t
  unfold decodeAlu
  beta_reduce
  split
  case h_11 =>
    have hle : 10 ≤ t.toNat := by grind
    exact .inr ⟨hle, rfl, (wf_undefAlu_iff t).mpr hle, by simp [IsUndefined]⟩
  all_goals exact .inl ⟨by omega, rfl, by simp [IsUndefined]⟩

theorem decodeAluImm_definedBelow (x : RegIx) (imm : Word) :
    DefinedBelow 10 .undefAluImm (decodeAluImm · x imm) := by
  intro t
  unfold decodeAluImm
  beta_reduce
  split
  case h_11 =>
    have hle : 10 ≤ t.toNat := by grind
    exact .inr ⟨hle, rfl, (wf_undefAluImm_iff t).mpr hle, by simp [IsUndefined]⟩
  all_goals exact .inl ⟨by omega, rfl, by simp [IsUndefined]⟩

theorem decodeUnary_definedBelow (x : RegIx) (yb : BitVec 4) :
    DefinedBelow 10 .undefUnary (decodeUnary · x yb) := by
  intro t
  unfold decodeUnary
  beta_reduce
  split
  case h_11 =>
    have hle : 10 ≤ t.toNat := by grind
    exact .inr ⟨hle, rfl, (wf_undefUnary_iff t).mpr hle, by simp [IsUndefined]⟩
  all_goals exact .inl ⟨by omega, rfl, by simp [IsUndefined]⟩

theorem decodeLoadStore_definedBelow (x y : RegIx) (imm ext : Word) :
    DefinedBelow 9 .undefLoadStore (decodeLoadStore · x y imm ext) := by
  intro t
  unfold decodeLoadStore
  beta_reduce
  split
  case h_10 =>
    have hle : 9 ≤ t.toNat := by grind
    exact .inr ⟨hle, rfl, (wf_undefLoadStore_iff t).mpr hle, by simp [IsUndefined]⟩
  all_goals exact .inl ⟨by omega, rfl, by simp [IsUndefined]⟩

theorem decodeStack_definedBelow (x : RegIx) : DefinedBelow 4 .undefStack (decodeStack · x) := by
  intro t
  unfold decodeStack
  beta_reduce
  split
  case h_5 =>
    have hle : 4 ≤ t.toNat := by grind
    exact .inr ⟨hle, rfl, (wf_undefStack_iff t).mpr hle, by simp [IsUndefined]⟩
  all_goals exact .inl ⟨by omega, rfl, by simp [IsUndefined]⟩

theorem decodeJumpReg_isDefined (t : BitVec 4) (x : RegIx) : IsDefined (decodeJumpReg t x) := by
  unfold decodeJumpReg
  split <;> exact ⟨rfl, by simp [IsUndefined]⟩

theorem decodeJumpAddr_isDefined (t : BitVec 4) (ext : Word) : IsDefined (decodeJumpAddr t ext) := by
  unfold decodeJumpAddr
  split <;> exact ⟨rfl, by simp [IsUndefined]⟩

theorem decodeCallReg_isDefined (t : BitVec 4) (x : RegIx) : IsDefined (decodeCallReg t x) := by
  unfold decodeCallReg
  split <;> exact ⟨rfl, by simp [IsUndefined]⟩

theorem decodeCallAddr_isDefined (t : BitVec 4) (ext : Word) : IsDefined (decodeCallAddr t ext) := by
  unfold decodeCallAddr
  split <;> exact ⟨rfl, by simp [IsUndefined]⟩

/-! ## Every word -/

/-- What the extension words can change of a word's decoding: the operands of a defined term, and nothing of an
undefined one (R97). -/
def ReadsAsListed (w : Word) : Prop :=
  (¬ UndefWord w ∧ ∀ imm ext, IsDefined (decodeWords w imm ext)) ∨
    (UndefWord w ∧ ∃ i, IsUndefinedForm i ∧ ∀ imm ext, decodeWords w imm ext = i)

/-- A class whose undefined words are those with `t` from `k` on. -/
theorem DefinedBelow.readsAsListed {k : Nat} {u : BitVec 4 → Instr} {f : Word → Word → BitVec 4 → Instr} {w : Word}
    (hf : ∀ imm ext, DefinedBelow k u (f imm ext)) (hw : UndefWord w ↔ k ≤ (tOf w).toNat)
    (hdec : ∀ imm ext, decodeWords w imm ext = f imm ext (tOf w)) : ReadsAsListed w := by
  by_cases h : k ≤ (tOf w).toNat
  · exact .inr ⟨hw.mpr h, u (tOf w), ((hf 0 0).of_le h).2, fun imm ext => (hdec imm ext).trans ((hf imm ext).of_le h).1⟩
  · exact .inl ⟨mt hw.mp h, fun imm ext => hdec imm ext ▸ (hf imm ext).of_lt (Nat.lt_of_not_le h)⟩

/-- Every word decodes as R98 to R103 say, by its class. -/
theorem readsAsListed (w : Word) : ReadsAsListed w := by
  match hc : (classOf w).toNat, (classOf w).isLt with
  | 0, _ =>
    have hdec : ∀ imm ext, decodeWords w imm ext = decodeSystem w := fun imm ext => by simp [decodeWords, hc]
    have hw : UndefWord w ↔ 4 ≤ w.toNat := by simp [UndefWord, hc]
    obtain ⟨h, hd⟩ | ⟨h, hd⟩ := decodeSystem_cases hc
    · exact .inl ⟨mt hw.mp (Nat.not_le_of_lt h), fun imm ext => hdec imm ext ▸ hd⟩
    · exact .inr ⟨hw.mpr h, _, hd, hdec⟩
  | 1, _ =>
    exact DefinedBelow.readsAsListed (fun imm _ => decodeMove_definedBelow (fieldIx (xOf w)) (fieldIx (yOf w)) imm)
      (by simp [UndefWord, hc]) (fun _ _ => by simp [decodeWords, hc])
  | 2, _ =>
    exact DefinedBelow.readsAsListed (fun _ _ => decodeAlu_definedBelow (fieldIx (xOf w)) (fieldIx (yOf w)))
      (by simp [UndefWord, hc]) (fun _ _ => by simp [decodeWords, hc])
  | 3, _ =>
    exact DefinedBelow.readsAsListed (fun imm _ => decodeAluImm_definedBelow (fieldIx (xOf w)) imm)
      (by simp [UndefWord, hc]) (fun _ _ => by simp [decodeWords, hc])
  | 4, _ =>
    exact DefinedBelow.readsAsListed (fun _ _ => decodeUnary_definedBelow (fieldIx (xOf w)) (yOf w))
      (by simp [UndefWord, hc]) (fun _ _ => by simp [decodeWords, hc])
  | 5, _ =>
    exact DefinedBelow.readsAsListed (decodeLoadStore_definedBelow (fieldIx (xOf w)) (fieldIx (yOf w)))
      (by simp [UndefWord, hc]) (fun _ _ => by simp [decodeWords, hc])
  | 6, _ =>
    exact DefinedBelow.readsAsListed (fun _ _ => decodeStack_definedBelow (fieldIx (xOf w)))
      (by simp [UndefWord, hc]) (fun _ _ => by simp [decodeWords, hc])
  | 7, _ =>
    exact .inl ⟨by simp [UndefWord, hc], fun _ _ => by simpa [decodeWords, hc] using decodeJumpReg_isDefined _ _⟩
  | 8, _ =>
    exact .inl ⟨by simp [UndefWord, hc], fun _ _ => by simpa [decodeWords, hc] using decodeJumpAddr_isDefined _ _⟩
  | 9, _ =>
    exact .inl ⟨by simp [UndefWord, hc], fun _ _ => by simpa [decodeWords, hc] using decodeCallReg_isDefined _ _⟩
  | 10, _ =>
    exact .inl ⟨by simp [UndefWord, hc], fun _ _ => by simpa [decodeWords, hc] using decodeCallAddr_isDefined _ _⟩
  | 11, _ | 12, _ =>
    exact .inl ⟨by simp [UndefWord, hc], fun _ _ => by simp [decodeWords, hc, IsDefined, Instr.wf, IsUndefined]⟩
  | 13, _ =>
    exact .inr ⟨by simp [UndefWord, hc], .undefClassD, ⟨rfl, by simp [IsUndefined]⟩,
      fun _ _ => by simp [decodeWords, hc]⟩
  | 14, _ =>
    exact .inr ⟨by simp [UndefWord, hc], .undefClassE, ⟨rfl, by simp [IsUndefined]⟩,
      fun _ _ => by simp [decodeWords, hc]⟩
  | 15, _ =>
    exact .inr ⟨by simp [UndefWord, hc], .undefClassF, ⟨rfl, by simp [IsUndefined]⟩,
      fun _ _ => by simp [decodeWords, hc]⟩
  | k + 16, hlt => omega

theorem wf_decodeWords (w imm ext : Word) : (decodeWords w imm ext).wf = true := by
  obtain ⟨-, hd⟩ | ⟨-, i, hi, hdec⟩ := readsAsListed w
  · exact (hd imm ext).1
  · rw [hdec]
    exact hi.1

theorem isUndefined_decodeWords_iff (w imm ext : Word) : IsUndefined (decodeWords w imm ext) ↔ UndefWord w := by
  obtain ⟨hw, hd⟩ | ⟨hw, i, hi, hdec⟩ := readsAsListed w
  · exact iff_of_false (hd imm ext).2 hw
  · rw [hdec]
    exact iff_of_true hi.2 hw

theorem UndefWord.decodeWords_eq {w : Word} (h : UndefWord w) (imm ext : Word) :
    decodeWords w imm ext = decodeWords w 0 0 := by
  obtain ⟨hw, -⟩ | ⟨-, i, -, hdec⟩ := readsAsListed w
  · exact absurd h hw
  · rw [hdec, hdec]

/-! ## The bytes an instruction takes -/

/-- Six bytes are enough to decode, and as many are taken as the first word's extension words need (R95, R96). -/
theorem decodeBytes_six_bytes (b0 b1 b2 b3 b4 b5 : Byte) (rest : List Byte) :
    ∃ imm ext, decodeBytes (b0 :: b1 :: b2 :: b3 :: b4 :: b5 :: rest) =
      .ok (decodeWords (wordOf b0 b1) imm ext,
        (b0 :: b1 :: b2 :: b3 :: b4 :: b5 :: rest).drop (2 + 2 * extWords (wordOf b0 b1))) := by
  unfold decodeBytes extWords
  simp only [takeWord]
  cases hasImm (classOf (wordOf b0 b1)) (tOf (wordOf b0 b1)) <;>
    cases hasAddr (classOf (wordOf b0 b1)) (tOf (wordOf b0 b1)) <;>
    exact ⟨_, _, rfl⟩

/-- The number of extension words, by class and `t` (R95). -/
theorem extWords_eq (w : Word) :
    let c := (classOf w).toNat
    let t := (tOf w).toNat
    extWords w =
      if (c = 1 ∧ t = 1) ∨ (c = 3 ∧ t ≤ 9) ∨ (c = 5 ∧ 4 ≤ t ∧ t ≤ 7) ∨ c = 8 ∨ c = 10 then 1
      else if c = 5 ∧ t = 8 then 2 else 0 := by
  intro c t
  have himm := hasImm_iff (classOf w) (tOf w)
  have haddr := hasAddr_iff (classOf w) (tOf w)
  unfold extWords
  cases hi : hasImm (classOf w) (tOf w) <;> cases ha : hasAddr (classOf w) (tOf w) <;>
    simp only [hi, ha, Bool.toNat_true, Bool.toNat_false, true_iff, Bool.false_eq_true, false_iff] at himm haddr ⊢ <;>
    split_ifs <;> omega

/-- What a cycle fetches, as the step computes it (R96, R300). -/
theorem Fetches.fetchDecode_eq {s e : State} {i : Instr} (h : Fetches s i e) : s.beginCycle.fetchDecode = (i, e) := by
  obtain ⟨rest, hdec, he⟩ := h
  exact (s.beginCycle.fetchDecode_of_decodeBytes hdec).trans (congrArg (i, ·) he.symm)

end Sys2Proof.Machine
end

section
/-! PROOFS. The obligations of 30_encoding.md. -/

namespace Sys2Proof.Machine

/-- Settles O1, by the class of the instruction: the fields of the encoded word are the operands, and the (class, t) of
the word ask for the extension words that follow it. -/
theorem decodeOfEncodeIsTheInstruction : Obligations.DecodeOfEncodeIsTheInstruction := by
  intro i h
  cases i with
  | nop | halt | ret | reti | undefClassD | undefClassE | undefClassF =>
    exact decodesTo_one rfl rfl rfl
  | mov =>
    exact decodesTo_one (by simp [hasImm]) (by simp [hasAddr]) (by simp [decodeWords, decodeMove])
  | movi =>
    exact decodesTo_imm (by simp [hasImm]) (by simp [hasAddr]) (by simp [decodeWords, decodeMove])
  | add | sub | mul | div | mod | and | or | xor | cmp | tst =>
    exact decodesTo_one (by simp [hasImm]) (by simp [hasAddr]) (by simp [decodeWords, decodeAlu])
  | addi | subi | muli | divi | modi | andi | ori | xori | cmpi | tsti =>
    exact decodesTo_imm (by simp [hasImm]) (by simp [hasAddr]) (by simp [decodeWords, decodeAluImm])
  | inc | dec | not | neg | shl | shr | sar | shli | shri | sari =>
    exact decodesTo_one (by simp [hasImm]) (by simp [hasAddr]) (by simp [decodeWords, decodeUnary])
  | ld | st | ldb | stb =>
    exact decodesTo_one (by simp [hasImm]) (by simp [hasAddr]) (by simp [decodeWords, decodeLoadStore])
  | lda | sta | ldba | stba =>
    exact decodesTo_addr (by simp [hasImm]) (by simp [hasAddr]) (by simp [decodeWords, decodeLoadStore])
  | stia =>
    exact decodesTo_imm_addr (by simp [hasImm]) (by simp [hasAddr]) (by simp [decodeWords, decodeLoadStore])
  | push | pop | pushf | popf =>
    exact decodesTo_one (by simp [hasImm]) (by simp [hasAddr]) (by simp [decodeWords, decodeStack])
  | jmpr | jeqr | jner | jcsr | jccr | jvsr | jvcr | jgtr | jltr | jger | jler | jhir | jlsr | jmir | jplr | jnvr =>
    exact decodesTo_one (by simp [hasImm]) (by simp [hasAddr]) (by simp [decodeWords, decodeJumpReg])
  | jmp | jeq | jne | jcs | jcc | jvs | jvc | jgt | jlt | jge | jle | jhi | jls | jmi | jpl | jnv =>
    exact decodesTo_addr (by simp [hasImm]) (by simp [hasAddr]) (by simp [decodeWords, decodeJumpAddr])
  | callr | calleqr | callner | callcsr | callccr | callvsr | callvcr | callgtr | callltr | callger | calller |
  callhir | calllsr | callmir | callplr | callnvr =>
    exact decodesTo_one (by simp [hasImm]) (by simp [hasAddr]) (by simp [decodeWords, decodeCallReg])
  | call | calleq | callne | callcs | callcc | callvs | callvc | callgt | calllt | callge | callle | callhi | callls |
  callmi | callpl | callnv =>
    exact decodesTo_addr (by simp [hasImm]) (by simp [hasAddr]) (by simp [decodeWords, decodeCallAddr])
  | ioIn | ioOut =>
    exact decodesTo_one (by simp [hasImm]) (by simp [hasAddr]) (by simp [decodeWords])
  | undefSystem low =>
    exact decodesTo_undefSystem ((wf_undefSystem_iff low).mp h)
  | undefMove t =>
    have ht : 2 ≤ t.toNat := (wf_undefMove_iff t).mp h
    exact (decodeMove_definedBelow (fieldIx 0) (fieldIx 0) 0).decodesTo ht (by simpa [UndefWord] using ht)
      (by simp [decodeWords])
  | undefAlu t =>
    have ht : 10 ≤ t.toNat := (wf_undefAlu_iff t).mp h
    exact (decodeAlu_definedBelow (fieldIx 0) (fieldIx 0)).decodesTo ht (by simpa [UndefWord] using ht)
      (by simp [decodeWords])
  | undefAluImm t =>
    have ht : 10 ≤ t.toNat := (wf_undefAluImm_iff t).mp h
    exact (decodeAluImm_definedBelow (fieldIx 0) 0).decodesTo ht (by simpa [UndefWord] using ht)
      (by simp [decodeWords])
  | undefUnary t =>
    have ht : 10 ≤ t.toNat := (wf_undefUnary_iff t).mp h
    exact (decodeUnary_definedBelow (fieldIx 0) 0).decodesTo ht (by simpa [UndefWord] using ht)
      (by simp [decodeWords])
  | undefLoadStore t =>
    have ht : 9 ≤ t.toNat := (wf_undefLoadStore_iff t).mp h
    exact (decodeLoadStore_definedBelow (fieldIx 0) (fieldIx 0) 0 0).decodesTo ht (by simpa [UndefWord] using ht)
      (by simp [decodeWords])
  | undefStack t =>
    have ht : 4 ≤ t.toNat := (wf_undefStack_iff t).mp h
    exact (decodeStack_definedBelow (fieldIx 0)).decodesTo ht (by simpa [UndefWord] using ht)
      (by simp [decodeWords])

/-- Settles O2, from the number of extension words of the first word. -/
theorem everyByteListDecodes : Obligations.EveryByteListDecodes := by
  intro b0 b1 b2 b3 b4 b5 rest bytes c t len
  have hb0 : b0.toNat < 256 := b0.isLt
  have hb1 : b1.toNat < 256 := b1.isLt
  have hc : (classOf (wordOf b0 b1)).toNat = c := by
    rw [toNat_classOf, toNat_wordOf]
    omega
  have ht : (tOf (wordOf b0 b1)).toNat = t := by
    rw [toNat_tOf, toNat_wordOf]
    omega
  have hlen : 2 + 2 * extWords (wordOf b0 b1) = len := by
    rw [extWords_eq, hc, ht]
    simp only [len]
    split_ifs <;> rfl
  obtain ⟨imm, ext, hdec⟩ := decodeBytes_six_bytes b0 b1 b2 b3 b4 b5 rest
  exact ⟨_, wf_decodeWords _ imm ext, hlen ▸ hdec⟩

/-- Settles O3, from the words R103 lists: what such a word decodes to depends on no extension word. -/
theorem undefinedEncodingsAreOneWordNoOps : Obligations.UndefinedEncodingsAreOneWordNoOps := by
  intro w imm ext s c t undef
  have hundef : UndefWord w ↔ undef := by simp only [UndefWord, toNat_classOf, toNat_tOf, undef, c, t]
  have hiff := isUndefined_decodeWords_iff w imm ext
  refine ⟨hiff.trans hundef, fun h => ?_⟩
  have hw : UndefWord w := hundef.mpr h
  exact ⟨hw.decodeWords_eq imm ext ▸ hw.decodesTo, exec_of_isUndefined (hiff.mpr hw) s⟩

/-- Settles O4, by decoding each list. -/
theorem sampleWordsDecodeAsTheSpecSays : Obligations.SampleWordsDecodeAsTheSpecSays := by
  unfold Obligations.SampleWordsDecodeAsTheSpecSays
  decide

/-- Settles O5: fetch and decode is decoding the bytes from PC on, and the peripheral steps keep the tick. -/
theorem stepRunsTheDecodedInstruction : Obligations.StepRunsTheDecodedInstruction := by
  intro s i e hs hfetch
  simp only [step, hs, hfetch.fetchDecode_eq, Bool.false_eq_true, if_false]
  cases exec i e with
  | next t => exact congrArg Host.Outcome.next t.endCycle_eq
  | fault | refused => rfl

end Sys2Proof.Machine
end

section
/-! PROOFS. What a push leaves on the stack for a later pop, what the shared pops do, and the stack frame of interrupt entry
with the return from it (R220, R330, R123). -/

namespace Sys2Proof.Machine

/-! ## Addresses and locations -/

/-- Addresses that differ in their low fifteen bits share no location (R61, R62). -/
theorem State.translate_ne_of_offset_ne {s : State} {a b : Word} (hb : s.canWrite b = true)
    (h : a.toNat % 0x8000 ≠ b.toNat % 0x8000) : s.translate a ≠ s.translate b := by
  intro heq
  cases ht : s.translate b with
  | none => simp [State.canWrite, ht] at hb
  | some l =>
    have hoff : a.extractLsb' 0 15 = b.extractLsb' 0 15 :=
      (State.translate_offset (heq.trans ht)).symm.trans (State.translate_offset ht)
    exact h (by simpa using congrArg BitVec.toNat hoff)

/-! ## A push and the cells of the stack -/

theorem State.reg_push16_ne (s : State) {r : RegIx} (hr : r ≠ spIx) (v : Word) : (s.push16 v).reg r = s.reg r := by
  simp [State.push16, hr]

@[simp] theorem State.reg_push16_sp (s : State) (v : Word) : (s.push16 v).reg spIx = s.reg spIx - 2#16 :=
  (s.push16_spec v).1

@[simp] theorem State.canWrite_push16 (s : State) (v a : Word) : (s.push16 v).canWrite a = s.canWrite a := by
  simp [State.canWrite]

/-- A pushed word reads back where its cell is writable memory (R220, R66). -/
theorem State.memRead16_push16 {s : State} (h2 : s.canWrite (s.reg spIx - 2#16) = true)
    (h1 : s.canWrite (s.reg spIx - 1#16) = true) (v : Word) : (s.push16 v).memRead16 (s.reg spIx - 2#16) = v := by
  have hstored : WordStored s (s.push16 v) (s.reg spIx - 2#16) v := (s.push16_spec v).2.1
  have hnext : s.reg spIx - 2#16 + 1#16 = s.reg spIx - 1#16 := by bv_omega
  exact hstored.memRead16 h2 (hnext ▸ h1)

/-- A push leaves a writable byte whose offset is that of neither pushed byte, whatever the mapping (R220, R62). -/
theorem State.memRead8_push16 {s : State} {b : Word} (hb : s.canWrite b = true)
    (h2 : (s.reg spIx - 2#16).toNat % 0x8000 ≠ b.toNat % 0x8000)
    (h1 : (s.reg spIx - 2#16 + 1#16).toNat % 0x8000 ≠ b.toNat % 0x8000) (v : Word) :
    (s.push16 v).memRead8 b = s.memRead8 b := by
  obtain ⟨-, -, -, -, -, -, -, hreads⟩ := s.push16_spec v
  refine hreads b fun a ha => State.translate_ne_of_offset_ne hb ?_
  obtain rfl | rfl : a = s.reg spIx - 2#16 ∨ a = s.reg spIx - 2#16 + 1#16 := by simpa using ha
  · exact h2
  · exact h1

/-- A push leaves the cell that was on top of the stack, if that cell is writable memory (R220). -/
theorem State.memRead16_push16_top {s : State} (h0 : s.canWrite (s.reg spIx) = true)
    (h1 : s.canWrite (s.reg spIx + 1#16) = true) (v : Word) :
    (s.push16 v).memRead16 (s.reg spIx) = s.memRead16 (s.reg spIx) := by
  rw [State.memRead16, State.memRead16, State.memRead8_push16 h0 (by bv_omega) (by bv_omega),
    State.memRead8_push16 h1 (by bv_omega) (by bv_omega)]

/-! ## Pops -/

/-- Popping the stack into a register changes SP and that register alone (R222). -/
theorem State.onlyRegs_pop16 (s : State) (x : RegIx) : OnlyRegs [x, spIx] s (s.pop16.2.setReg x s.pop16.1) := by
  refine ⟨fun r hr => ?_, rfl, fun _ _ => rfl, ⟨rfl, rfl, rfl, rfl, rfl⟩, fun l => by simp, fun _ => rfl⟩
  obtain ⟨hx, hsp⟩ : r ≠ x ∧ r ≠ spIx := by simpa using hr
  simp [hx, hsp]

/-- The return from an interrupt: PC and FLAGS from the two cells on top of the stack, SP past them, nothing else changed
(R123). -/
theorem State.interruptReturn_spec (s : State) :
    s.interruptReturn.reg pcIx = s.memRead16 (s.reg spIx + 2#16) ∧
      s.interruptReturn.reg spIx = s.reg spIx + 4#16 ∧
      s.interruptReturn.flags = Flags.ofImage (s.memRead16 (s.reg spIx)) ∧
      OnlyRegsAndFlags [pcIx, spIx] s s.interruptReturn := by
  have h4 : s.reg spIx + 2#16 + 2#16 = s.reg spIx + 4#16 := by bv_omega
  rw [State.interruptReturn_eq, h4]
  refine ⟨by simp, by simp, rfl, fun r hr => ?_, fun _ _ => rfl, ⟨rfl, rfl, rfl, rfl, rfl⟩, fun l => by simp,
    fun _ => rfl⟩
  obtain ⟨hpc, hsp⟩ : r ≠ pcIx ∧ r ≠ spIx := by simpa using hr
  simp [hpc, hsp]

/-! ## The frame of interrupt entry -/

@[simp] theorem State.reg_interruptEntry_sp (s : State) : s.interruptEntry.reg spIx = s.reg spIx - 4#16 := by
  have h4 : s.reg spIx - 2#16 - 2#16 = s.reg spIx - 4#16 := by bv_omega
  simp [State.interruptEntry_eq, h4]

theorem State.reg_interruptEntry_ne (s : State) {r : RegIx} (hpc : r ≠ pcIx) (hsp : r ≠ spIx) :
    s.interruptEntry.reg r = s.reg r := by
  simp [State.interruptEntry_eq, State.reg_push16_ne, hpc, hsp]

/-- In writable memory interrupt entry leaves the flags image in the cell at the new SP, and the old PC in the cell above it
(R330). -/
theorem State.memRead16_interruptEntry {s : State} (h1 : s.canWrite (s.reg spIx - 1#16) = true)
    (h2 : s.canWrite (s.reg spIx - 2#16) = true) (h3 : s.canWrite (s.reg spIx - 3#16) = true)
    (h4 : s.canWrite (s.reg spIx - 4#16) = true) :
    s.interruptEntry.memRead16 (s.reg spIx - 4#16) = s.flags.image ∧
      s.interruptEntry.memRead16 (s.reg spIx - 2#16) = s.reg pcIx := by
  have e21 : s.reg spIx - 2#16 + 1#16 = s.reg spIx - 1#16 := by bv_omega
  have e3 : s.reg spIx - 2#16 - 1#16 = s.reg spIx - 3#16 := by bv_omega
  have e4 : s.reg spIx - 2#16 - 2#16 = s.reg spIx - 4#16 := by bv_omega
  have himage := State.memRead16_push16 (s := s.push16 (s.reg pcIx)) (by simpa [e4] using h4) (by simpa [e3] using h3)
    s.flags.image
  have hpc := State.memRead16_push16_top (s := s.push16 (s.reg pcIx)) (by simpa using h2) (by simpa [e21] using h1)
    s.flags.image
  rw [State.reg_push16_sp] at himage hpc
  rw [State.interruptEntry_eq, State.memRead16_setIrq, State.memRead16_setReg, State.memRead16_setIrq,
    State.memRead16_setReg]
  exact ⟨e4 ▸ himage, hpc.trans (State.memRead16_push16 h2 h1 _)⟩

end Sys2Proof.Machine
end

section
/-! PROOFS. The obligations of 40_system.md. -/

namespace Sys2Proof.Machine

/-- Settles O45: entry leaves FLAGS and PC in the two cells that the return pops, and SP moves back by the same four. -/
theorem retiUndoesInterruptEntry : Obligations.RetiUndoesInterruptEntry := by
  intro s h1 h2 h3 h4
  obtain ⟨himage, hret⟩ := State.memRead16_interruptEntry h1 h2 h3 h4
  obtain ⟨hpc, hsp, hflags, hregs, hio, -, -⟩ := s.interruptEntry.interruptReturn_spec
  have e2 : s.reg spIx - 4#16 + 2#16 = s.reg spIx - 2#16 := by bv_omega
  have e0 : s.reg spIx - 4#16 + 4#16 = s.reg spIx := by bv_omega
  rw [State.reg_interruptEntry_sp, e2, hret] at hpc
  rw [State.reg_interruptEntry_sp, e0] at hsp
  rw [State.reg_interruptEntry_sp, himage, Flags.ofImage_image] at hflags
  refine ⟨_, rfl, fun r => ?_, hflags, fun p r => (hio p r).trans ((UnmappedFrame.interruptEntry s).io p r)⟩
  by_cases hrpc : r = pcIx
  · rw [hrpc, hpc]
  by_cases hrsp : r = spIx
  · rw [hrsp, hsp]
  · rw [hregs r (by simp [hrpc, hrsp]), s.reg_interruptEntry_ne hrpc hrsp]

/-- Settles O6: NOP and the undefined encodings are the instructions whose execute phase is the state itself. -/
theorem nopAndUndefinedChangeNothing : Obligations.NopAndUndefinedChangeNothing := by
  intro s
  have hundef {i : Instr} (h : IsUndefined i) : exec i s = .next s := exec_of_isUndefined h s
  refine ⟨decodeOfEncodeIsTheInstruction .nop rfl, rfl, fun _ => hundef ?_, fun _ => hundef ?_, fun _ => hundef ?_,
    fun _ => hundef ?_, fun _ => hundef ?_, fun _ => hundef ?_, fun _ => hundef ?_, hundef ?_, hundef ?_, hundef ?_⟩
  all_goals simp [IsUndefined]

/-- Settles O7: HALT is a write of PC and of the halted flag. -/
theorem haltRewindsPcAndHalts : Obligations.HaltRewindsPcAndHalts := by
  intro s
  obtain ⟨hpc, hregs, hflags, hio, ⟨-, hpending, hvector, htick, hbanks⟩, hbytes, hreads⟩ :=
    s.setReg_spec pcIx (s.reg pcIx - 2#16)
  exact ⟨decodeOfEncodeIsTheInstruction .halt rfl, _, rfl, hpc, rfl, hregs, hflags, hio, hpending, hvector, htick, hbanks,
    fun l => (State.byteAt_setHalted _ l).trans (hbytes l), hreads⟩

/-- Settles O8: RET pops the stack into PC as POP R15 does, and the two corners are readings of the cell at SP. -/
theorem retPopsThePc : Obligations.RetPopsThePc := by
  intro s
  refine ⟨decodeOfEncodeIsTheInstruction .ret rfl,
    ⟨s.pop16.2.setReg pcIx s.pop16.1, rfl, ?_, ?_, s.onlyRegs_pop16 pcIx, fun hlo hhi => ?_, fun htop => ⟨?_, ?_⟩⟩, rfl⟩
  · exact State.reg_setReg_same _ _ _
  · simp
  · rw [State.reg_setReg_same, State.pop16_fst, State.memRead16, State.memRead8_of_unmapped hlo,
      State.memRead8_of_unmapped hhi]
    rfl
  · rw [State.reg_setReg_same, State.pop16_fst, htop]
    rfl
  · simp [htop]

/-- Settles O9: what the return from an interrupt pops, the FLAGS image read bit by bit. -/
theorem retiPopsFlagsThenPc : Obligations.RetiPopsFlagsThenPc := by
  intro s
  obtain ⟨hpc, hsp, hflags, hframe⟩ := s.interruptReturn_spec
  refine ⟨decodeOfEncodeIsTheInstruction .reti rfl, _, rfl, hpc, hsp, ?_, ?_, ?_, ?_, hframe⟩
  all_goals
    rw [hflags]
    rfl

end Sys2Proof.Machine
end

section
/-! PROOFS. The instructions that write one register and nothing else. -/

namespace Sys2Proof.Machine

/-- An instruction whose execute phase is one register write changes that register alone. -/
theorem PutsReg.of_exec_eq_setReg {i : Instr} {s : State} {x : RegIx} {v : Word} (h : exec i s = .next (s.setReg x v)) :
    PutsReg i s x v :=
  ⟨_, h, s.setReg_spec x v⟩

end Sys2Proof.Machine
end

section
/-! PROOFS. The obligations of 41_move.md. -/

namespace Sys2Proof.Machine

/-- MOVI decodes whatever its Y field holds (R131). -/
theorem decodesTo_movi (x : RegIx) (u : BitVec 4) (imm : Word) :
    DecodesTo [instrWord 1 1 (fieldBits x) u, imm] (.movi x imm) :=
  decodesTo_imm (by simp [hasImm]) (by simp [hasAddr]) (by simp [decodeWords, decodeMove])

/-- Settles O10: both moves are one register write, and `setReg_spec` makes no exception of SP and PC. -/
theorem movesCopyAndKeepFlags : Obligations.MovesCopyAndKeepFlags := by
  intro s x
  refine ⟨fun y => ⟨?_, ?_⟩, fun imm u => ⟨decodesTo_movi x u imm, ?_⟩⟩
  · exact decodeOfEncodeIsTheInstruction (.mov x y) rfl
  · exact .of_exec_eq_setReg rfl
  · exact .of_exec_eq_setReg rfl

end Sys2Proof.Machine
end

section
/-! PROOFS. The instructions that place a result in ACC or only its flags in FLAGS (R145), what C and V of an addition and of
a subtraction say (R171), and the decoding of class 3. -/

namespace Sys2Proof.Machine

/-! ## C and V as ranges -/

@[simp] theorem flagsOf_c (r : Word) (c v : Bool) : (flagsOf r c v).c = c := rfl
@[simp] theorem flagsOf_v (r : Word) (c v : Bool) : (flagsOf r c v).v = v := rfl

theorem addFlags_c_iff (a b : Word) : (addFlags a b).c = true ↔ 65535 < a.toNat + b.toNat := by
  simp [addFlags]

theorem subFlags_c_iff (a b : Word) : (subFlags a b).c = true ↔ a.toNat < b.toNat := by
  simp [subFlags]

/-- V of R140 is the library's test for signed overflow of a sum. -/
theorem addFlags_v_eq_saddOverflow (a b : Word) : (addFlags a b).v = a.saddOverflow b := by
  rw [BitVec.saddOverflow_eq, addFlags, flagsOf_v, msb_eq_bit15, msb_eq_bit15, msb_eq_bit15]
  cases a.getLsbD 15 <;> cases b.getLsbD 15 <;> simp

/-- V of R141 is the library's test for signed overflow of a difference. -/
theorem subFlags_v_eq_ssubOverflow (a b : Word) : (subFlags a b).v = a.ssubOverflow b := by
  rw [BitVec.ssubOverflow_eq, subFlags, flagsOf_v, msb_eq_bit15, msb_eq_bit15, msb_eq_bit15]
  cases a.getLsbD 15 <;> cases b.getLsbD 15 <;> simp

/-- V after an addition: the two's-complement sum does not fit (R171, R140). -/
theorem addFlags_v_iff (a b : Word) :
    (addFlags a b).v = true ↔ a.toInt + b.toInt < -32768 ∨ 32767 < a.toInt + b.toInt := by
  rw [addFlags_v_eq_saddOverflow, BitVec.saddOverflow, Bool.or_eq_true, decide_eq_true_iff, decide_eq_true_iff]
  omega

/-- V after a subtraction: the two's-complement difference does not fit (R171, R141). -/
theorem subFlags_v_iff (a b : Word) :
    (subFlags a b).v = true ↔ a.toInt - b.toInt < -32768 ∨ 32767 < a.toInt - b.toInt := by
  rw [subFlags_v_eq_ssubOverflow, BitVec.ssubOverflow, Bool.or_eq_true, decide_eq_true_iff, decide_eq_true_iff]
  omega

/-! ## Results in ACC and in FLAGS -/

section
variable {i : Instr} {s : State} {a b v : Word} {f : Flags}

theorem PutsAcc.of_exec_eq_putAcc {r : AluResult} (h : exec i s = .next (s.putAcc r)) (hv : r.value = v)
    (hf : r.flags = f) : PutsAcc i s v f := by
  subst hv hf
  exact ⟨_, h, s.putAcc_spec r⟩

theorem PutsFlags.of_exec_eq_putFlags {r : AluResult} (h : exec i s = .next (s.putFlags r)) (hf : r.flags = f) :
    PutsFlags i s f := by
  subst hf
  exact ⟨_, h, s.putFlags_spec r⟩

/-- An operation that has a result exactly for the operands `b` other than 0 puts it in ACC, and changes nothing for 0
(R144). -/
theorem putsAcc_or_keeps {r : Option AluResult} (h : exec i s = .next (s.putAcc? r)) (hsome : b ≠ 0 → r = some ⟨v, f⟩)
    (hnone : b = 0 → r = none) : (b ≠ 0 → PutsAcc i s v f) ∧ (b = 0 → exec i s = .next s) := by
  constructor
  · intro hb
    rw [hsome hb] at h
    exact .of_exec_eq_putAcc h rfl rfl
  · intro hb
    rw [hnone hb] at h
    exact h

theorem putsAcc_of_addOp (h : exec i s = .next (s.putAcc (addOp a b))) : PutsAcc i s (a + b) (addFlags a b) :=
  .of_exec_eq_putAcc h (addOp_value a b) (addOp_flags a b)

theorem putsAcc_of_subOp (h : exec i s = .next (s.putAcc (subOp a b))) : PutsAcc i s (a - b) (subFlags a b) :=
  .of_exec_eq_putAcc h (subOp_value a b) (subOp_flags a b)

theorem putsFlags_of_subOp (h : exec i s = .next (s.putFlags (subOp a b))) : PutsFlags i s (subFlags a b) :=
  .of_exec_eq_putFlags h (subOp_flags a b)

theorem putsAcc_of_mulOp (h : exec i s = .next (s.putAcc (mulOp a b))) :
    PutsAcc i s (a * b) (flagsOf (a * b) (decide (0xFFFF < a.toNat * b.toNat)) false) :=
  .of_exec_eq_putAcc h (mulOp_value a b) (mulOp_flags a b)

theorem putsAcc_of_logicOp (h : exec i s = .next (s.putAcc (logicOp v))) : PutsAcc i s v (flagsOf v false false) :=
  .of_exec_eq_putAcc h (logicOp_value v) (logicOp_flags v)

theorem putsFlags_of_logicOp (h : exec i s = .next (s.putFlags (logicOp v))) : PutsFlags i s (flagsOf v false false) :=
  .of_exec_eq_putFlags h (logicOp_flags v)

theorem putsAcc_or_keeps_of_divOp (h : exec i s = .next (s.putAcc? (divOp a b))) :
    (b ≠ 0 → PutsAcc i s (a / b) (flagsOf (a / b) false false)) ∧ (b = 0 → exec i s = .next s) :=
  putsAcc_or_keeps h (fun hb => divOp_of_ne hb a) fun hb => hb ▸ divOp_zero a

theorem putsAcc_or_keeps_of_modOp (h : exec i s = .next (s.putAcc? (modOp a b))) :
    (b ≠ 0 → PutsAcc i s (a % b) (flagsOf (a % b) false false)) ∧ (b = 0 → exec i s = .next s) :=
  putsAcc_or_keeps h (fun hb => modOp_of_ne hb a) fun hb => hb ▸ modOp_zero a

end

/-! ## The register forms that more than one statement is about -/

variable (s : State) (x y : RegIx)

theorem putsAcc_add : PutsAcc (.add x y) s (s.reg x + s.reg y) (addFlags (s.reg x) (s.reg y)) :=
  putsAcc_of_addOp rfl

theorem putsAcc_sub : PutsAcc (.sub x y) s (s.reg x - s.reg y) (subFlags (s.reg x) (s.reg y)) :=
  putsAcc_of_subOp rfl

theorem putsAcc_div_or_keeps :
    (s.reg y ≠ 0 → PutsAcc (.div x y) s (s.reg x / s.reg y) (flagsOf (s.reg x / s.reg y) false false)) ∧
      (s.reg y = 0 → exec (.div x y) s = .next s) :=
  putsAcc_or_keeps_of_divOp rfl

theorem putsAcc_mod_or_keeps :
    (s.reg y ≠ 0 → PutsAcc (.mod x y) s (s.reg x % s.reg y) (flagsOf (s.reg x % s.reg y) false false)) ∧
      (s.reg y = 0 → exec (.mod x y) s = .next s) :=
  putsAcc_or_keeps_of_modOp rfl

/-! ## Decoding of class 3 -/

/-- A class-3 word with a defined sub-opcode takes an immediate and decodes whatever its Y field holds (R95, R100). -/
theorem decodesTo_aluImm {t : BitVec 4} (ht : t ≤ 9) (u : BitVec 4) (imm : Word) :
    DecodesTo [instrWord 3 t (fieldBits x) u, imm] (decodeAluImm t x imm) :=
  decodesTo_imm (by simpa [hasImm] using ht) (by simp [hasAddr]) (by simp [decodeWords])

end Sys2Proof.Machine
end

section
/-! PROOFS. The obligations of 42_alu.md. -/

namespace Sys2Proof.Machine

/-- Settles O54: SUB leaves the subtrahend register as it was, so ADD adds to the difference the word SUB took off. -/
theorem subtractThenAddRestores : Obligations.SubtractThenAddRestores := by
  intro s x y hy
  obtain ⟨t, ht, htacc, -, hregs, -⟩ := putsAcc_sub s x y
  obtain ⟨u, hu, huacc, -⟩ := putsAcc_add t accIx y
  have hsub : t.reg y = s.reg y := hregs y (by simpa using hy)
  exact ⟨t, u, ht, hu, by rw [huacc, htacc, hsub, BitVec.sub_add_cancel]⟩

/-- Settles O55: Euclidean division of naturals, quotient and remainder read as the numbers in ACC. -/
theorem quotientAndRemainderReconstruct : Obligations.QuotientAndRemainderReconstruct := by
  intro s x y hy
  obtain ⟨t, ht, hq, -⟩ := (putsAcc_div_or_keeps s x y).1 hy
  obtain ⟨u, hu, hr, -⟩ := (putsAcc_mod_or_keeps s x y).1 hy
  refine ⟨t, u, ht, hu, ?_, ?_⟩
  · rw [hq, hr, BitVec.toNat_udiv, BitVec.toNat_umod, Nat.div_add_mod']
  · rw [hr, BitVec.toNat_umod]
    exact Nat.mod_lt _ (by bv_omega)

/-- Settles O56: C and V of `addFlags` and `subFlags`, read as ranges. -/
theorem overflowFlagsMeanOutOfRange : Obligations.OverflowFlagsMeanOutOfRange := by
  intro s x y
  obtain ⟨t, ht, -, htflags, -⟩ := putsAcc_add s x y
  obtain ⟨u, hu, -, huflags, -⟩ := putsAcc_sub s x y
  rw [← addFlags_c_iff, ← addFlags_v_iff, ← subFlags_c_iff, ← subFlags_v_iff]
  exact ⟨t, u, ht, hu, by rw [htflags], by rw [htflags], by rw [huflags], by rw [huflags]⟩

/-- Settles O11: both forms place the result of `addOp` in ACC. -/
theorem addWritesAccAndFlags : Obligations.AddWritesAccAndFlags := by
  intro s x
  refine ⟨fun y => ⟨decodeOfEncodeIsTheInstruction (.add x y) rfl, ?_⟩,
    fun imm u => ⟨decodesTo_aluImm x (t := 0) (by decide) u imm, ?_⟩⟩
  · exact putsAcc_add s x y
  · exact putsAcc_of_addOp rfl

/-- Settles O12: SUB and SUBI place the result of `subOp` in ACC, CMP and CMPI only its flags. -/
theorem subAndCmpWriteBorrowFlags : Obligations.SubAndCmpWriteBorrowFlags := by
  intro s x
  refine ⟨fun y => ⟨decodeOfEncodeIsTheInstruction (.sub x y) rfl, ?_⟩,
    fun imm u => ⟨decodesTo_aluImm x (t := 1) (by decide) u imm, ?_⟩,
    fun y => ⟨decodeOfEncodeIsTheInstruction (.cmp x y) rfl, ?_⟩,
    fun imm u => ⟨decodesTo_aluImm x (t := 8) (by decide) u imm, ?_⟩⟩
  · exact putsAcc_sub s x y
  · exact putsAcc_of_subOp rfl
  · exact putsFlags_of_subOp rfl
  · exact putsFlags_of_subOp rfl

/-- Settles O13: both forms place the result of `mulOp` in ACC. -/
theorem mulWritesTheLowHalf : Obligations.MulWritesTheLowHalf := by
  intro s x
  refine ⟨fun y => ⟨decodeOfEncodeIsTheInstruction (.mul x y) rfl, ?_⟩,
    fun imm u => ⟨decodesTo_aluImm x (t := 2) (by decide) u imm, ?_⟩⟩
  all_goals exact putsAcc_of_mulOp rfl

/-- Settles O14: `divOp` and `modOp` have a result exactly when the divisor is not 0. -/
theorem divAndModAreUnsigned : Obligations.DivAndModAreUnsigned := by
  intro s x
  refine ⟨fun y => ⟨decodeOfEncodeIsTheInstruction (.div x y) rfl, ?_⟩,
    fun imm u => ⟨decodesTo_aluImm x (t := 3) (by decide) u imm, ?_⟩,
    fun y => ⟨decodeOfEncodeIsTheInstruction (.mod x y) rfl, ?_⟩,
    fun imm u => ⟨decodesTo_aluImm x (t := 4) (by decide) u imm, ?_⟩⟩
  · exact putsAcc_div_or_keeps s x y
  · exact putsAcc_or_keeps_of_divOp rfl
  · exact putsAcc_mod_or_keeps s x y
  · exact putsAcc_or_keeps_of_modOp rfl

/-- Settles O15: the six logic operations place a `logicOp` in ACC, the two tests only its flags. -/
theorem logicWritesAccAndClearsCarry : Obligations.LogicWritesAccAndClearsCarry := by
  intro s x
  refine ⟨fun y => ⟨decodeOfEncodeIsTheInstruction (.and x y) rfl, putsAcc_of_logicOp rfl⟩,
    fun imm u => ⟨decodesTo_aluImm x (t := 5) (by decide) u imm, putsAcc_of_logicOp rfl⟩,
    fun y => ⟨decodeOfEncodeIsTheInstruction (.or x y) rfl, putsAcc_of_logicOp rfl⟩,
    fun imm u => ⟨decodesTo_aluImm x (t := 6) (by decide) u imm, putsAcc_of_logicOp rfl⟩,
    fun y => ⟨decodeOfEncodeIsTheInstruction (.xor x y) rfl, putsAcc_of_logicOp rfl⟩,
    fun imm u => ⟨decodesTo_aluImm x (t := 7) (by decide) u imm, putsAcc_of_logicOp rfl⟩,
    fun y => ⟨decodeOfEncodeIsTheInstruction (.tst x y) rfl, putsFlags_of_logicOp rfl⟩,
    fun imm u => ⟨decodesTo_aluImm x (t := 9) (by decide) u imm, putsFlags_of_logicOp rfl⟩⟩

end Sys2Proof.Machine
end

section
/-! PROOFS. The instructions that place a result in the named register and its flags in FLAGS (class 4), the flags of a
subtraction from 0 (R186), and the decoding of class 4. -/

namespace Sys2Proof.Machine

/-! ## Results in the named register -/

section
variable {i : Instr} {s : State} {x : RegIx} {a b v : Word} {f : Flags} {k : Nat}

theorem PutsRegFlags.of_exec_eq_putReg {r : AluResult} (h : exec i s = .next (s.putReg x r)) (hv : r.value = v)
    (hf : r.flags = f) : PutsRegFlags i s x v f := by
  subst hv hf
  exact ⟨_, h, s.putReg_spec x r⟩

theorem putsRegFlags_of_addOp (h : exec i s = .next (s.putReg x (addOp a b))) :
    PutsRegFlags i s x (a + b) (addFlags a b) :=
  .of_exec_eq_putReg h (addOp_value a b) (addOp_flags a b)

theorem putsRegFlags_of_subOp (h : exec i s = .next (s.putReg x (subOp a b))) :
    PutsRegFlags i s x (a - b) (subFlags a b) :=
  .of_exec_eq_putReg h (subOp_value a b) (subOp_flags a b)

theorem putsRegFlags_of_logicOp (h : exec i s = .next (s.putReg x (logicOp v))) :
    PutsRegFlags i s x v (flagsOf v false false) :=
  .of_exec_eq_putReg h (logicOp_value v) (logicOp_flags v)

/-- A result given with its C and V, as each shift is by its one formula, takes N and Z from itself. -/
theorem putsRegFlags_of_eq_resultWith {r : AluResult} {c o : Bool} (h : exec i s = .next (s.putReg x r))
    (hr : r = resultWith v c o) : PutsRegFlags i s x v (flagsOf v c o) := by
  subst hr
  exact .of_exec_eq_putReg h (resultWith_value v c o) (resultWith_flags v c o)

/-- The amount enters as its number, so that one lemma covers a register amount and an immediate one (R94). -/
theorem putsRegFlags_of_shlOp (h : exec i s = .next (s.putReg x (shlOp a b))) (hk : b.toNat = k) :
    PutsRegFlags i s x (BitVec.ofNat 16 (a.toNat * 2 ^ k))
      (flagsOf (BitVec.ofNat 16 (a.toNat * 2 ^ k)) (decide (1 ≤ k ∧ k ≤ 16) && a.getLsbD (16 - k)) false) := by
  subst hk
  exact putsRegFlags_of_eq_resultWith h (shlOp_eq a b)

theorem putsRegFlags_of_shrOp (h : exec i s = .next (s.putReg x (shrOp a b))) (hk : b.toNat = k) :
    PutsRegFlags i s x (BitVec.ofNat 16 (a.toNat / 2 ^ k))
      (flagsOf (BitVec.ofNat 16 (a.toNat / 2 ^ k)) (decide (1 ≤ k ∧ k ≤ 16) && a.getLsbD (k - 1)) false) := by
  subst hk
  exact putsRegFlags_of_eq_resultWith h (shrOp_eq a b)

theorem putsRegFlags_of_sarOp (h : exec i s = .next (s.putReg x (sarOp a b))) (hk : b.toNat = k) :
    PutsRegFlags i s x (BitVec.ofInt 16 (a.toInt / 2 ^ k))
      (flagsOf (BitVec.ofInt 16 (a.toInt / 2 ^ k)) (decide (1 ≤ k) && a.getLsbD (min (k - 1) 15)) false) := by
  subst hk
  exact putsRegFlags_of_eq_resultWith h (sarOp_eq a b)

end

/-! ## Negation -/

/-- A subtraction from 0 borrows for every subtrahend but 0, and overflows for -32768 alone, whose negation does not fit
(R186). -/
theorem subFlags_zero (a : Word) : subFlags 0#16 a = flagsOf (-a) (decide (a ≠ 0)) (decide (a = 0x8000)) := by
  have hc : (subFlags 0#16 a).c = decide (a ≠ 0) := by
    rw [Bool.eq_iff_iff, subFlags_c_iff, decide_eq_true_iff]
    bv_omega
  have hv : (subFlags 0#16 a).v = decide (a = 0x8000) := by
    rw [Bool.eq_iff_iff, subFlags_v_iff, decide_eq_true_iff, ← BitVec.toInt_inj, BitVec.toInt_zero,
      show (0x8000 : Word).toInt = -32768 from rfl]
    have := a.le_toInt
    have := a.toInt_lt
    omega
  calc subFlags 0#16 a
      = flagsOf (0#16 - a) (subFlags 0#16 a).c (subFlags 0#16 a).v := rfl
    _ = flagsOf (-a) (decide (a ≠ 0)) (decide (a = 0x8000)) := by rw [hc, hv, BitVec.zero_sub]

theorem putsRegFlags_neg (s : State) (x : RegIx) :
    PutsRegFlags (.neg x) s x (-(s.reg x)) (flagsOf (-(s.reg x)) (decide (s.reg x ≠ 0)) (decide (s.reg x = 0x8000))) := by
  rw [← subFlags_zero, ← BitVec.zero_sub]
  exact putsRegFlags_of_subOp rfl

/-! ## Decoding of class 4 -/

/-- A class-4 word is one instruction whatever its sub-opcode, and hands its Y field on as it is (R94, R95, R100). -/
theorem decodesTo_unary (x : RegIx) (t yb : BitVec 4) :
    DecodesTo [instrWord 4 t (fieldBits x) yb] (decodeUnary t x yb) :=
  decodesTo_one (by simp [hasImm]) (by simp [hasAddr]) (by simp [decodeWords])

end Sys2Proof.Machine
end

section
/-! PROOFS. The obligations of 43_unary_shift.md. -/

namespace Sys2Proof.Machine

/-- Settles O17: both forms place the result of `shlOp`, and `toNat_shiftImm` reads the immediate amount. -/
theorem shiftLeftMultiplies : Obligations.ShiftLeftMultiplies := by
  intro s x
  refine ⟨fun y => ⟨decodeOfEncodeIsTheInstruction (.shl x y) rfl, ?_⟩, fun n => ⟨decodesTo_unary x 7 n, ?_⟩⟩
  · exact putsRegFlags_of_shlOp rfl rfl
  · exact putsRegFlags_of_shlOp rfl (toNat_shiftImm n)

/-- Settles O18: both forms place the result of `shrOp`. -/
theorem logicalShiftRightDivides : Obligations.LogicalShiftRightDivides := by
  intro s x
  refine ⟨fun y => ⟨decodeOfEncodeIsTheInstruction (.shr x y) rfl, ?_⟩, fun n => ⟨decodesTo_unary x 8 n, ?_⟩⟩
  · exact putsRegFlags_of_shrOp rfl rfl
  · exact putsRegFlags_of_shrOp rfl (toNat_shiftImm n)

/-- Settles O19: both forms place the result of `sarOp`. -/
theorem arithmeticShiftRightFloors : Obligations.ArithmeticShiftRightFloors := by
  intro s x
  refine ⟨fun y => ⟨decodeOfEncodeIsTheInstruction (.sar x y) rfl, ?_⟩, fun n => ⟨decodesTo_unary x 9 n, ?_⟩⟩
  · exact putsRegFlags_of_sarOp rfl rfl
  · exact putsRegFlags_of_sarOp rfl (toNat_shiftImm n)

/-- Settles O16: each of the four places its result in the named register; NEG's flags are those of 0 - x[X]. -/
theorem incDecNotNegWriteTheirRegister : Obligations.IncDecNotNegWriteTheirRegister := by
  intro s x u
  refine ⟨⟨decodesTo_unary x 0 u, ?_⟩, ⟨decodesTo_unary x 1 u, ?_⟩, ⟨decodesTo_unary x 2 u, ?_⟩,
    decodesTo_unary x 3 u, ?_⟩
  · exact putsRegFlags_of_addOp rfl
  · exact putsRegFlags_of_subOp rfl
  · exact putsRegFlags_of_logicOp rfl
  · exact putsRegFlags_neg s x

end Sys2Proof.Machine
end

section
/-! PROOFS. What an instruction of class 5 does, by the one shared load or store its execute phase is, and the decoding of
the class. -/

namespace Sys2Proof.Machine

/-! ## Loads and stores -/

/-- The zero-extended byte is the byte below a zero byte (R203). -/
theorem State.load8_eq (s : State) (x : RegIx) (a : Word) : s.load8 x a = s.setReg x (0#8 ++ s.memRead8 a) := by
  rw [State.load8, BitVec.zeroExtend, BitVec.setWidth_eq_append (by decide)]
  rfl

/-- A 16-bit write changes nothing but its two bytes (R65). -/
theorem State.onlyRegsAndBytes_memWrite16 (s : State) (a v : Word) :
    OnlyRegsAndBytes [] [a, a + 1#16] s (s.memWrite16 a v) :=
  ⟨fun r _ => by simp, by simp, fun p r => by simp, by simp [SameHidden], (s.memWrite16_spec a v).2⟩

section
variable {i : Instr} {s : State} {x : RegIx} {a v : Word}

theorem putsReg_of_load16 (h : exec i s = .next (s.load16 x a)) :
    PutsReg i s x (s.memRead8 (a + 1#16) ++ s.memRead8 a) :=
  .of_exec_eq_setReg h

theorem putsReg_of_load8 (h : exec i s = .next (s.load8 x a)) : PutsReg i s x (0#8 ++ s.memRead8 a) :=
  .of_exec_eq_setReg (s.load8_eq x a ▸ h)

theorem storesWord_of_store16 (h : exec i s = .next (s.store16 a v)) : StoresWord i s a v :=
  ⟨_, h, (s.memWrite16_spec a v).1, s.onlyRegsAndBytes_memWrite16 a v⟩

theorem storesByte_of_store8 (h : exec i s = .next (s.store8 a v)) : StoresByte i s a (v.extractLsb' 0 8) :=
  ⟨_, h, s.memWrite8_spec a (loByte v)⟩

end

/-! ## Decoding of class 5 -/

/-- A class-5 word whose sub-opcode takes an address alone decodes whatever its Y field holds (R95, R100). -/
theorem decodesTo_loadStore_addr (x : RegIx) {t : BitVec 4} (hi : hasImm 5 t = false) (ha : hasAddr 5 t = true)
    (u : BitVec 4) (ext : Word) :
    DecodesTo [instrWord 5 t (fieldBits x) u, ext] (decodeLoadStore t x (fieldIx u) 0 ext) :=
  decodesTo_addr (by simpa using hi) (by simpa using ha) (by simp [decodeWords])

/-- STIA takes an immediate and an address, and decodes whatever its X and Y fields hold (R91, R209). -/
theorem decodesTo_stia (u v : BitVec 4) (imm ext : Word) : DecodesTo [instrWord 5 8 u v, imm, ext] (.stia imm ext) :=
  decodesTo_imm_addr (by simp [hasImm]) (by simp [hasAddr]) (by simp [decodeWords, decodeLoadStore])

end Sys2Proof.Machine
end

section
/-! PROOFS. The obligations of 44_load_store.md. -/

namespace Sys2Proof.Machine

/-- Settles O21: each of the three is one `store16`, so each byte is kept or discarded as `memWrite16_spec` says. -/
theorem wordStoresWriteTwoBytes : Obligations.WordStoresWriteTwoBytes := by
  intro s x
  refine ⟨fun y => ⟨decodeOfEncodeIsTheInstruction (.st x y) rfl, ?_⟩,
    fun ext u => ⟨decodesTo_loadStore_addr x (t := 5) rfl rfl u ext, ?_⟩,
    fun imm ext u v => ⟨decodesTo_stia u v imm ext, ?_⟩⟩
  all_goals exact storesWord_of_store16 rfl

/-- Settles O22: both forms are one `store8`, which takes the low byte of the register. -/
theorem byteStoresWriteOneByte : Obligations.ByteStoresWriteOneByte := by
  intro s x
  refine ⟨fun y => ⟨decodeOfEncodeIsTheInstruction (.stb x y) rfl, ?_⟩,
    fun ext u => ⟨decodesTo_loadStore_addr x (t := 7) rfl rfl u ext, ?_⟩⟩
  all_goals exact storesByte_of_store8 rfl

/-- Settles O20: the four are one register write, whose value and address are read in the state before it. -/
theorem loadsWriteTheirRegister : Obligations.LoadsWriteTheirRegister := by
  intro s x
  refine ⟨fun y => ⟨decodeOfEncodeIsTheInstruction (.ld x y) rfl, ?_⟩,
    fun y => ⟨decodeOfEncodeIsTheInstruction (.ldb x y) rfl, ?_⟩,
    fun ext u => ⟨decodesTo_loadStore_addr x (t := 4) rfl rfl u ext, ?_⟩,
    fun ext u => ⟨decodesTo_loadStore_addr x (t := 6) rfl rfl u ext, ?_⟩⟩
  · exact putsReg_of_load16 rfl
  · exact putsReg_of_load8 rfl
  · exact putsReg_of_load16 rfl
  · exact putsReg_of_load8 rfl

end Sys2Proof.Machine
end

section
/-! PROOFS. What an instruction of class 6 does, by the shared push or pop its execute phase is, and the decoding of the
class. -/

namespace Sys2Proof.Machine

/-! ## Pushes and pops -/

theorem Pushes.of_exec_eq_push16 {i : Instr} {s : State} {v : Word} (h : exec i s = .next (s.push16 v)) :
    Pushes i s v := by
  have hnext : s.reg spIx - 2#16 + 1#16 = s.reg spIx - 1#16 := by bv_omega
  exact ⟨_, h, hnext ▸ s.push16_spec v⟩

/-- Popping the stack into FLAGS changes SP and FLAGS alone: the one update that `putReg` is too (R224). -/
theorem State.popFlags_spec (s : State) :
    (s.pop16.2.setFlags (Flags.ofImage s.pop16.1)).reg spIx = s.reg spIx + 2#16 ∧
      (s.pop16.2.setFlags (Flags.ofImage s.pop16.1)).flags = Flags.ofImage (s.memRead16 (s.reg spIx)) ∧
      OnlyRegsAndFlags [spIx] s (s.pop16.2.setFlags (Flags.ofImage s.pop16.1)) :=
  s.putReg_spec spIx ⟨s.reg spIx + 2#16, Flags.ofImage (s.memRead16 (s.reg spIx))⟩

/-- The pop after a push takes back the SP, whether or not the cell could be written (R220). -/
theorem State.reg_pop16_push16 (s : State) (v : Word) (r : RegIx) : (s.push16 v).pop16.2.reg r = s.reg r := by
  by_cases hr : r = spIx
  · subst hr
    simp
  · simp [hr, s.reg_push16_ne hr]

/-- The pop after a push takes back the value, where the cell is writable memory (R220, R66). -/
theorem State.pop16_fst_push16 {s : State} (h2 : s.canWrite (s.reg spIx - 2#16) = true)
    (h1 : s.canWrite (s.reg spIx - 1#16) = true) (v : Word) : (s.push16 v).pop16.1 = v := by
  rw [State.pop16_fst, State.reg_push16_sp]
  exact State.memRead16_push16 h2 h1 v

/-! ## Decoding of class 6 -/

/-- A class-6 word is one instruction whatever its sub-opcode and its Y field (R94, R95, R100). -/
theorem decodesTo_stack (t : BitVec 4) {xb : BitVec 4} {x : RegIx} (hx : fieldIx xb = x) (yb : BitVec 4) :
    DecodesTo [instrWord 6 t xb yb] (decodeStack t x) :=
  decodesTo_one (by simp [hasImm]) (by simp [hasAddr]) (by simp [decodeWords, hx])

end Sys2Proof.Machine
end

section
/-! PROOFS. The obligations of 45_stack.md. -/

namespace Sys2Proof.Machine

/-- Settles O23: both are one push, of a value read in the state before SP moves. -/
theorem pushesStoreBelowSp : Obligations.PushesStoreBelowSp := by
  intro s
  refine ⟨fun x u => ⟨decodesTo_stack 0 (fieldIx_fieldBits x) u, ?_⟩, fun u v => ⟨decodesTo_stack 2 rfl v, ?_⟩⟩
  all_goals exact .of_exec_eq_push16 rfl

/-- Settles O25: the pop takes back every register, and its write of Rx repeats the value Rx had before the PUSH. -/
theorem pushThenPopRoundTrips : Obligations.PushThenPopRoundTrips := by
  intro s x h2 h1
  refine ⟨s.push16 (s.reg x), _, rfl, rfl, fun r => ?_, by simp⟩
  rw [State.pop16_fst_push16 h2 h1]
  by_cases hr : r = x
  · rw [hr, State.reg_setReg_same]
  · rw [State.reg_setReg_ne _ hr, State.reg_pop16_push16]

/-- Settles O24: POP is a pop and then a register write, which for SP overwrites the moved SP; POPF reads the FLAGS image
bit by bit. -/
theorem popsLoadFromSp : Obligations.PopsLoadFromSp := by
  intro s
  refine ⟨fun x u => ⟨decodesTo_stack 1 (fieldIx_fieldBits x) u, s.pop16.2.setReg x s.pop16.1, rfl, ?_, fun hx => ?_,
    s.onlyRegs_pop16 x⟩, fun u v => ⟨decodesTo_stack 3 rfl v, ?_⟩⟩
  · exact State.reg_setReg_same _ _ _
  · rw [State.reg_setReg_ne _ hx.symm, State.pop16_snd, State.reg_setReg_same]
  · obtain ⟨hsp, hflags, hframe⟩ := s.popFlags_spec
    refine ⟨_, rfl, hsp, ?_, ?_, ?_, ?_, hframe⟩
    all_goals
      rw [hflags]
      rfl

end Sys2Proof.Machine
end

section
/-! PROOFS. The forms of classes 7 to A as one family over the condition in `t`, what a form does by the shared jump or
call its execute phase is, the decoding of the four classes, and what the conditions of R230 say of a subtraction. -/

namespace Sys2Proof.Machine

/-! ## Conditions by their codes -/

/-- The code of a condition in `t` (R230). -/
def codeOf : Cond → BitVec 4
  | .al => 0
  | .eq => 1
  | .ne => 2
  | .cs => 3
  | .cc => 4
  | .vs => 5
  | .vc => 6
  | .gt => 7
  | .lt => 8
  | .ge => 9
  | .le => 10
  | .hi => 11
  | .ls => 12
  | .mi => 13
  | .pl => 14
  | .nv => 15

/-- Every condition, in the order of the codes. -/
def allConds : List Cond := [.al, .eq, .ne, .cs, .cc, .vs, .vc, .gt, .lt, .ge, .le, .hi, .ls, .mi, .pl, .nv]

/-- The model's conditions are the column "true when" of R230. -/
theorem condHolds_iff (c : Cond) (f : Flags) : condHolds c f = true ↔ trueWhen (codeOf c) f := by
  cases c <;> simp [condHolds, trueWhen, codeOf]

/-! ## The forms of a class -/

theorem jumpRegForms_eq (x : RegIx) : jumpRegForms x =
    allConds.map fun c => (codeOf c, decodeJumpReg (codeOf c) x) :=
  rfl

theorem jumpAddrForms_eq (ext : Word) : jumpAddrForms ext =
    allConds.map fun c => (codeOf c, decodeJumpAddr (codeOf c) ext) :=
  rfl

theorem callRegForms_eq (x : RegIx) : callRegForms x =
    allConds.map fun c => (codeOf c, decodeCallReg (codeOf c) x) :=
  rfl

theorem callAddrForms_eq (ext : Word) : callAddrForms ext =
    allConds.map fun c => (codeOf c, decodeCallAddr (codeOf c) ext) :=
  rfl

/-! ## Decoding of classes 7 to A: Y is ignored, and X too where the target is an address (R93, R95, R101) -/

theorem decodesTo_jumpReg (t : BitVec 4) (x : RegIx) (v : BitVec 4) :
    DecodesTo [instrWord 7 t (fieldBits x) v] (decodeJumpReg t x) :=
  decodesTo_one (by simp [hasImm]) (by simp [hasAddr]) (by simp [decodeWords])

theorem decodesTo_jumpAddr (t u v : BitVec 4) (ext : Word) :
    DecodesTo [instrWord 8 t u v, ext] (decodeJumpAddr t ext) :=
  decodesTo_addr (by simp [hasImm]) (by simp [hasAddr]) (by simp [decodeWords])

theorem decodesTo_callReg (t : BitVec 4) (x : RegIx) (v : BitVec 4) :
    DecodesTo [instrWord 9 t (fieldBits x) v] (decodeCallReg t x) :=
  decodesTo_one (by simp [hasImm]) (by simp [hasAddr]) (by simp [decodeWords])

theorem decodesTo_callAddr (t u v : BitVec 4) (ext : Word) :
    DecodesTo [instrWord 10 t u v, ext] (decodeCallAddr t ext) :=
  decodesTo_addr (by simp [hasImm]) (by simp [hasAddr]) (by simp [decodeWords])

/-! ## The execute phase of classes 7 to A -/

theorem exec_decodeJumpReg (c : Cond) (x : RegIx) (s : State) :
    exec (decodeJumpReg (codeOf c) x) s = .next (s.jumpIf c (s.reg x)) := by
  cases c <;> rfl

theorem exec_decodeJumpAddr (c : Cond) (ext : Word) (s : State) :
    exec (decodeJumpAddr (codeOf c) ext) s = .next (s.jumpIf c ext) := by
  cases c <;> rfl

theorem exec_decodeCallReg (c : Cond) (x : RegIx) (s : State) :
    exec (decodeCallReg (codeOf c) x) s = .next (s.callIf c (s.reg x)) := by
  cases c <;> rfl

theorem exec_decodeCallAddr (c : Cond) (ext : Word) (s : State) :
    exec (decodeCallAddr (codeOf c) ext) s = .next (s.callIf c ext) := by
  cases c <;> rfl

section
variable {i : Instr} {s : State} {c : Cond} {v : Word}

/-- An instruction whose execute phase is a conditional jump writes PC when R230 says so, and nothing else (R232). -/
theorem jumps_of_exec_eq_jumpIf (h : exec i s = .next (s.jumpIf c v)) :
    ∃ e, exec i s = .next e ∧ (trueWhen (codeOf c) s.flags → e.reg pcIx = v) ∧
      (¬ trueWhen (codeOf c) s.flags → e.reg pcIx = s.reg pcIx) ∧ OnlyRegs [pcIx] s e := by
  obtain ⟨hpc, hframe⟩ := s.jumpIf_spec c v
  rw [← condHolds_iff]
  exact ⟨_, h, fun hc => hpc.trans (if_pos hc), fun hc => hpc.trans (if_neg hc), hframe⟩

/-- An instruction whose execute phase is a conditional call pushes PC and jumps when R230 says so, and otherwise changes
nothing (R234, R220). -/
theorem calls_of_exec_eq_callIf (h : exec i s = .next (s.callIf c v)) :
    (¬ trueWhen (codeOf c) s.flags → exec i s = .next s) ∧
      (trueWhen (codeOf c) s.flags → ∃ e, exec i s = .next e ∧ e.reg pcIx = v ∧ e.reg spIx = s.reg spIx - 2#16 ∧
        WordStored s e (s.reg spIx - 2#16) (s.reg pcIx) ∧
        OnlyRegsAndBytes [pcIx, spIx] [s.reg spIx - 2#16, s.reg spIx - 1#16] s e) := by
  have hnext : s.reg spIx - 2#16 + 1#16 = s.reg spIx - 1#16 := by bv_omega
  rw [← condHolds_iff]
  constructor
  · intro hc
    rw [h, State.callIf_of_not s (Bool.eq_false_iff.mpr hc)]
  · intro hc
    exact ⟨_, h, hnext ▸ s.callIf_spec hc v⟩

end

/-! ## The flags of a subtraction as comparisons -/

section
variable (a b : Word)

theorem subFlags_z_iff : (subFlags a b).z = true ↔ a = b := by
  have hz : (subFlags a b).z = decide (a - b = 0) := rfl
  rw [hz, decide_eq_true_iff]
  bv_omega

theorem subFlags_z_eq_false_iff : (subFlags a b).z = false ↔ a ≠ b := by
  rw [← Bool.not_eq_true, subFlags_z_iff]

theorem subFlags_c_eq_false_iff : (subFlags a b).c = false ↔ b.toNat ≤ a.toNat := by
  rw [← Bool.not_eq_true, subFlags_c_iff, Nat.not_lt]

theorem subFlags_v_eq_false_iff :
    (subFlags a b).v = false ↔ -32768 ≤ a.toInt - b.toInt ∧ a.toInt - b.toInt ≤ 32767 := by
  rw [← Bool.not_eq_true, subFlags_v_iff]
  omega

theorem subFlags_n_iff : (subFlags a b).n = true ↔ (a - b).toInt < 0 := by
  have hn : (subFlags a b).n = (a - b).getLsbD 15 := rfl
  rw [hn, ← msb_eq_bit15, BitVec.msb_eq_toInt, decide_eq_true_iff]

/-- The sign of the wrapped difference is wrong exactly when the difference overflows, so N against V is the signed order
(R230). -/
theorem subFlags_n_ne_v_iff : (subFlags a b).n ≠ (subFlags a b).v ↔ a.toInt < b.toInt := by
  have ha := a.le_toInt
  have ha' := a.toInt_lt
  have hb := b.le_toInt
  have hb' := b.toInt_lt
  rw [Ne, Bool.eq_iff_iff, subFlags_n_iff, subFlags_v_iff, BitVec.toInt_sub, Int.bmod]
  omega

theorem subFlags_n_eq_v_iff : (subFlags a b).n = (subFlags a b).v ↔ b.toInt ≤ a.toInt := by
  rw [← not_iff_not, ← Ne, subFlags_n_ne_v_iff, Int.not_le]

/-! GT, LE, HI and LS join an order with equality of the operands (R230). -/

theorem subFlags_gt_iff : (subFlags a b).z = false ∧ (subFlags a b).n = (subFlags a b).v ↔ b.toInt < a.toInt := by
  rw [subFlags_z_eq_false_iff, subFlags_n_eq_v_iff, Ne, ← BitVec.toInt_inj]
  omega

theorem subFlags_le_iff : (subFlags a b).z = true ∨ (subFlags a b).n ≠ (subFlags a b).v ↔ a.toInt ≤ b.toInt := by
  rw [subFlags_z_iff, subFlags_n_ne_v_iff, ← BitVec.toInt_inj]
  omega

theorem subFlags_hi_iff : (subFlags a b).c = false ∧ (subFlags a b).z = false ↔ b.toNat < a.toNat := by
  rw [subFlags_c_eq_false_iff, subFlags_z_eq_false_iff, Ne, ← BitVec.toNat_inj]
  omega

theorem subFlags_ls_iff : (subFlags a b).c = true ∨ (subFlags a b).z = true ↔ a.toNat ≤ b.toNat := by
  rw [subFlags_c_iff, subFlags_z_iff, ← BitVec.toNat_inj]
  omega

end

end Sys2Proof.Machine
end

section
/-! PROOFS. The obligations of 46_control.md. -/

namespace Sys2Proof.Machine

/-- Settles O26: the sixteen forms are one conditional jump to x[X], whose condition the code gives. -/
theorem registerJumpsSetPcIfTheConditionHolds : Obligations.RegisterJumpsSetPcIfTheConditionHolds := by
  intro s x
  rw [jumpRegForms_eq, List.forall_mem_map]
  exact fun c _ => ⟨decodesTo_jumpReg (codeOf c) x, jumps_of_exec_eq_jumpIf (exec_decodeJumpReg c x s)⟩

/-- Settles O27: the sixteen forms are one conditional jump to the extension word. -/
theorem addressJumpsSetPcIfTheConditionHolds : Obligations.AddressJumpsSetPcIfTheConditionHolds := by
  intro s ext
  rw [jumpAddrForms_eq, List.forall_mem_map]
  exact fun c _ => ⟨fun u v => decodesTo_jumpAddr (codeOf c) u v ext,
    jumps_of_exec_eq_jumpIf (exec_decodeJumpAddr c ext s)⟩

/-- Settles O28: the sixteen forms are one conditional call, whose target is x[X] of the state before the push. -/
theorem registerCallsPushTheReturnAddress : Obligations.RegisterCallsPushTheReturnAddress := by
  intro s x
  rw [callRegForms_eq, List.forall_mem_map]
  exact fun c _ => ⟨decodesTo_callReg (codeOf c) x, calls_of_exec_eq_callIf (exec_decodeCallReg c x s)⟩

/-- Settles O29: the sixteen forms are one conditional call of the extension word. -/
theorem addressCallsPushTheReturnAddress : Obligations.AddressCallsPushTheReturnAddress := by
  intro s ext
  rw [callAddrForms_eq, List.forall_mem_map]
  exact fun c _ => ⟨fun u v => decodesTo_callAddr (codeOf c) u v ext,
    calls_of_exec_eq_callIf (exec_decodeCallAddr c ext s)⟩

/-- Settles O30: each condition asks of the flags of x[X] - x[Y] what R230's column "true when" says, and each such
formula is a comparison of the operands. -/
theorem conditionsAfterCompare : Obligations.ConditionsAfterCompare := by
  intro s x y
  obtain ⟨t, ht, hflags, -⟩ := putsFlags_of_subOp (i := .cmp x y) (s := s) rfl
  refine ⟨t, ht, ?_⟩
  intro a b
  have hcond (c : Cond) : condHolds c t.flags = true ↔ trueWhen (codeOf c) (subFlags a b) :=
    hflags ▸ condHolds_iff c t.flags
  exact ⟨rfl, rfl, (hcond .eq).trans (subFlags_z_iff a b), (hcond .ne).trans (subFlags_z_eq_false_iff a b),
    (hcond .cs).trans (subFlags_c_iff a b), (hcond .cc).trans (subFlags_c_eq_false_iff a b),
    (hcond .vs).trans (subFlags_v_iff a b), (hcond .vc).trans (subFlags_v_eq_false_iff a b),
    (hcond .gt).trans (subFlags_gt_iff a b), (hcond .lt).trans (subFlags_n_ne_v_iff a b),
    (hcond .ge).trans (subFlags_n_eq_v_iff a b), (hcond .le).trans (subFlags_le_iff a b),
    (hcond .hi).trans (subFlags_hi_iff a b), (hcond .ls).trans (subFlags_ls_iff a b), hcond .mi, hcond .pl⟩

end Sys2Proof.Machine
end

section
/-! PROOFS. What a write of one I/O register leaves unchanged. -/

namespace Sys2Proof.Machine

/-- A write of an I/O register changes neither a CPU register nor a byte of a backing store, whatever its port (R70). -/
theorem State.onlyIo_setIo (s : State) (p r : IoIx) (v : Word) : OnlyIo s (s.setIo p r v) :=
  ⟨fun j _ => s.reg_setIo p r v j, rfl, ⟨rfl, rfl, rfl, rfl, rfl⟩, s.byteAt_setIo p r v⟩

/-- Only a write of port 0 can change what an address reads as: it may remap the address (R62, R45). -/
theorem State.memRead8_setIo (s : State) {p : IoIx} (hp : p ≠ mmuPort) (r : IoIx) (v a : Word) :
    (s.setIo p r v).memRead8 a = s.memRead8 a := by
  have ht := s.translate_setIo hp r v a
  cases h : s.translate a with
  | none => rw [State.memRead8_of_unmapped h, State.memRead8_of_unmapped (ht.trans h)]
  | some l => rw [State.memRead8_of_mapped h, State.memRead8_of_mapped (ht.trans h), State.byteAt_setIo]

end Sys2Proof.Machine
end

section
/-! PROOFS. The obligation of 47_io.md. -/

namespace Sys2Proof.Machine

/-- Settles O31: IN is one register write, and OUT is one write of an I/O register, which moves no byte but through port 0
may remap addresses. -/
theorem inReadsAndOutWritesOneIoRegister : Obligations.InReadsAndOutWritesOneIoRegister := by
  intro s x p r
  refine ⟨⟨decodeOfEncodeIsTheInstruction (.ioIn x p r) rfl, .of_exec_eq_setReg rfl⟩,
    decodeOfEncodeIsTheInstruction (.ioOut x p r) rfl, s.setIo p r (s.reg x), rfl, ?_, fun p' r' hne => ?_, ?_,
    fun hp a => ?_⟩
  · exact s.ioReg_setIo_same p r (s.reg x)
  · rw [State.ioReg_setIo, if_neg hne]
  · exact s.onlyIo_setIo p r (s.reg x)
  · exact s.memRead8_setIo hp r (s.reg x) a

end Sys2Proof.Machine
end

section
/-! PROOFS. Changes of I/O registers alone, one after another, and the raise of an interrupt line (R321). -/

namespace Sys2Proof.Machine

/-! ## Writes of I/O registers -/

/-- A later write of the same I/O register replaces the earlier one (R43). -/
@[simp] theorem State.setIo_setIo (s : State) (p r : IoIx) (v w : Word) : (s.setIo p r v).setIo p r w = s.setIo p r w := by
  simp [State.setIo]

/-- Writing back what an I/O register holds changes nothing: it is plain storage (R43). -/
@[simp] theorem State.setIo_ioReg (s : State) (p r : IoIx) : s.setIo p r (s.ioReg p r) = s := by
  simp [State.setIo, State.ioReg]

theorem OnlyIo.refl (s : State) : OnlyIo s s :=
  ⟨fun _ _ => rfl, rfl, ⟨rfl, rfl, rfl, rfl, rfl⟩, fun _ => rfl⟩

theorem SameHidden.trans {s t u : State} (h : SameHidden s t) (h' : SameHidden t u) : SameHidden s u := by
  obtain ⟨hhalted, hpending, hvector, htick, hbanks⟩ := h
  obtain ⟨hhalted', hpending', hvector', htick', hbanks'⟩ := h'
  exact ⟨hhalted'.trans hhalted, hpending'.trans hpending, hvector'.trans hvector, htick'.trans htick,
    hbanks'.trans hbanks⟩

theorem OnlyIo.trans {s t u : State} (h : OnlyIo s t) (h' : OnlyIo t u) : OnlyIo s u := by
  obtain ⟨hregs, hflags, hhidden, hbytes⟩ := h
  obtain ⟨hregs', hflags', hhidden', hbytes'⟩ := h'
  exact ⟨fun r hr => (hregs' r hr).trans (hregs r hr), hflags'.trans hflags, hhidden.trans hhidden',
    fun l => (hbytes' l).trans (hbytes l)⟩

/-- What an address reads as depends on its translation and the bytes of the backing stores alone (R63). -/
theorem State.memRead8_congr {s t : State} {a : Word} (ht : t.translate a = s.translate a)
    (hb : ∀ l, t.byteAt l = s.byteAt l) : t.memRead8 a = s.memRead8 a := by
  cases h : s.translate a with
  | none => rw [State.memRead8_of_unmapped h, State.memRead8_of_unmapped (ht.trans h)]
  | some l => rw [State.memRead8_of_mapped h, State.memRead8_of_mapped (ht.trans h), hb l]

/-- A peripheral that changes no byte of a backing store changes no address: none writes port 0 (R62). -/
theorem PeripheralFrame.memRead8 {s t : State} (h : PeripheralFrame s t) (hb : ∀ l, t.byteAt l = s.byteAt l) (a : Word) :
    t.memRead8 a = s.memRead8 a :=
  State.memRead8_congr (h.translate a) hb

/-! ## Raise -/

theorem State.raiseLine_of_masked {s : State} {l : Fin 16} (h : (s.ioReg picPort 0).getLsbD l = true) :
    s.raiseLine l = s := by
  simp [State.raiseLine, h]

/-- A raise of a line already requested changes nothing: requests do not count (R321). -/
theorem State.raiseLine_of_requested {s : State} {l : Fin 16} (h : (s.ioReg picPort 2).getLsbD l = true) :
    s.raiseLine l = s := by
  obtain ⟨-, e⟩ | ⟨-, e⟩ := s.raiseLine_cases l
  · exact e
  have hirr : s.ioReg picPort 2 ||| BitVec.twoPow 16 l = s.ioReg picPort 2 := by
    apply BitVec.eq_of_getLsbD_eq
    intro k hk
    rw [BitVec.getLsbD_or, getLsbD_twoPow16 l ⟨k, hk⟩]
    by_cases hkl : (⟨k, hk⟩ : Fin 16) = l
    · subst hkl
      simpa using h
    · simp [hkl]
  rw [e, hirr, State.setIo_ioReg]

theorem State.onlyIo_raiseLine (s : State) (l : Fin 16) : OnlyIo s (s.raiseLine l) := by
  obtain ⟨-, e⟩ | ⟨-, e⟩ := s.raiseLine_cases l <;> rw [e]
  · exact .refl s
  · exact s.onlyIo_setIo picPort 2 _

end Sys2Proof.Machine
end

section
/-! PROOFS. The timers: what a timer step does in each case, and the steps from one comparator event to the next (R341,
R344). -/

namespace Sys2Proof.Machine

/-- The count of timer `i` one up or, in MODE 1, one down (R341). -/
def State.nextCount (s : State) (i : Fin 3) : Word :=
  if (s.ioReg (timerPort i) 4).getLsbD 0 then s.ioReg (timerPort i) 0 - 1#16 else s.ioReg (timerPort i) 0 + 1#16

/-- The comparator of timer `i` meets its next count (R341). -/
abbrev State.Reaches (s : State) (i : Fin 3) : Prop :=
  if (s.ioReg (timerPort i) 4).getLsbD 0 then (s.nextCount i).toNat ≤ (s.ioReg (timerPort i) 2).toNat
  else (s.ioReg (timerPort i) 2).toNat ≤ (s.nextCount i).toNat

/-- The cycle's tick is one that timer `i` counts (R341). -/
abbrev State.Counts (s : State) (i : Fin 3) : Prop := s.tick.toNat % ((s.ioReg (timerPort i) 1).toNat + 1) = 0

theorem timerEvent_iff (s : State) (i : Fin 3) : TimerEvent s i ↔ s.Counts i ∧ s.Reaches i := by
  unfold State.Reaches State.nextCount
  change _ ∧ (if (s.ioReg (timerPort i) 4).getLsbD 0 = true then _ else _) ↔ _
  split <;> rfl

/-- A counted tick: the count moves first and is compared second; an event reloads it and raises the timer's line (R341,
R343). -/
theorem State.timerCount_eq (s : State) (i : Fin 3) :
    s.timerCount i =
      if s.Reaches i then (s.setIo (timerPort i) 0 (s.ioReg (timerPort i) 3)).raiseLine (timerLine i)
      else s.setIo (timerPort i) 0 (s.nextCount i) := by
  unfold State.timerCount State.Reaches State.nextCount
  by_cases hd : (s.ioReg (timerPort i) 4).getLsbD 0 = true <;>
    simp only [hd, if_true, if_false, Bool.false_eq_true, BitVec.le_def, decide_eq_true_eq]

theorem State.timerStep_of_not_counts {s : State} {i : Fin 3} (hc : ¬ s.Counts i) : s.timerStep i = s :=
  if_neg hc

theorem State.timerStep_of_counts {s : State} {i : Fin 3} (hc : s.Counts i) : s.timerStep i = s.timerCount i :=
  if_pos hc

theorem State.timerStep_of_reaches {s : State} {i : Fin 3} (hc : s.Counts i) (h : s.Reaches i) :
    s.timerStep i = (s.setIo (timerPort i) 0 (s.ioReg (timerPort i) 3)).raiseLine (timerLine i) := by
  rw [State.timerStep_of_counts hc, State.timerCount_eq, if_pos h]

theorem State.timerStep_of_not_reaches {s : State} {i : Fin 3} (hc : s.Counts i) (h : ¬ s.Reaches i) :
    s.timerStep i = s.setIo (timerPort i) 0 (s.nextCount i) := by
  rw [State.timerStep_of_counts hc, State.timerCount_eq, if_neg h]

theorem State.onlyIo_timerStep (s : State) (i : Fin 3) : OnlyIo s (s.timerStep i) := by
  by_cases hc : s.Counts i
  · by_cases h : s.Reaches i
    · rw [State.timerStep_of_reaches hc h]
      exact (s.onlyIo_setIo _ _ _).trans (State.onlyIo_raiseLine _ _)
    · rw [State.timerStep_of_not_reaches hc h]
      exact s.onlyIo_setIo _ _ _
  · rw [State.timerStep_of_not_counts hc]
    exact .refl s

/-- The count after a counted tick (R341). -/
theorem State.count_timerStep {s : State} {i : Fin 3} (hc : s.Counts i) :
    (s.timerStep i).ioReg (timerPort i) 0 = if s.Reaches i then s.ioReg (timerPort i) 3 else s.nextCount i := by
  by_cases h : s.Reaches i
  · rw [State.timerStep_of_reaches hc h, if_pos h, State.ioReg_raiseLine _ _ fun e => picPort_ne_timerPort i e.1.symm,
      State.ioReg_setIo_same]
  · rw [State.timerStep_of_not_reaches hc h, if_neg h, State.ioReg_setIo_same]

/-! ## From one comparator event to the next -/

@[simp] theorem State.counts_setIo_count (s : State) (i : Fin 3) (v : Word) :
    (s.setIo (timerPort i) 0 v).Counts i ↔ s.Counts i := by
  simp [State.Counts]

theorem State.nextCount_setIo_of_up {s : State} {i : Fin 3} (hm : (s.ioReg (timerPort i) 4).getLsbD 0 = false) (v : Word) :
    (s.setIo (timerPort i) 0 v).nextCount i = v + 1#16 := by
  rw [State.nextCount, State.ioReg_setIo_ne_reg s (by decide), hm, State.ioReg_setIo_same]
  rfl

theorem State.nextCount_setIo_of_down {s : State} {i : Fin 3} (hm : (s.ioReg (timerPort i) 4).getLsbD 0 = true) (v : Word) :
    (s.setIo (timerPort i) 0 v).nextCount i = v - 1#16 := by
  rw [State.nextCount, State.ioReg_setIo_ne_reg s (by decide), hm, State.ioReg_setIo_same]
  rfl

theorem State.reaches_setIo_of_up {s : State} {i : Fin 3} (hm : (s.ioReg (timerPort i) 4).getLsbD 0 = false) (v : Word) :
    (s.setIo (timerPort i) 0 v).Reaches i ↔ (s.ioReg (timerPort i) 2).toNat ≤ (v + 1#16).toNat := by
  rw [State.Reaches, State.nextCount_setIo_of_up hm, State.ioReg_setIo_ne_reg s (by decide),
    State.ioReg_setIo_ne_reg s (by decide), hm]
  rfl

theorem State.reaches_setIo_of_down {s : State} {i : Fin 3} (hm : (s.ioReg (timerPort i) 4).getLsbD 0 = true) (v : Word) :
    (s.setIo (timerPort i) 0 v).Reaches i ↔ (v - 1#16).toNat ≤ (s.ioReg (timerPort i) 2).toNat := by
  rw [State.Reaches, State.nextCount_setIo_of_down hm, State.ioReg_setIo_ne_reg s (by decide),
    State.ioReg_setIo_ne_reg s (by decide), hm]
  rfl

/-- Counted ticks of timer `i`, one after another. -/
abbrev State.afterTicks (s : State) (i : Fin 3) (k : Nat) : State := (fun u : State => u.timerStep i)^[k] s

theorem State.afterTicks_succ (s : State) (i : Fin 3) (k : Nat) :
    s.afterTicks i (k + 1) = (s.afterTicks i k).timerStep i :=
  Function.iterate_succ_apply' _ k s

/-- Counted ticks of timer `i` would take COUNT from `c 0` through `c 1`, `c 2` and on, and the tick to `c d` is the first that
reaches the comparator. -/
structure CountRun (s : State) (i : Fin 3) (c : Nat → Word) (d : Nat) : Prop where
  counts : s.Counts i
  start : s.ioReg (timerPort i) 0 = c 0
  next : ∀ k, (s.setIo (timerPort i) 0 (c k)).nextCount i = c (k + 1)
  reaches : ∀ k, k < d → ((s.setIo (timerPort i) 0 (c k)).Reaches i ↔ k + 1 = d)
  pos : 0 < d

/-- Up from INIT to CMP (R344). -/
theorem CountRun.of_up {s : State} {i : Fin 3} (hc : s.Counts i)
    (hinit : s.ioReg (timerPort i) 0 = s.ioReg (timerPort i) 3) (hm : (s.ioReg (timerPort i) 4).getLsbD 0 = false)
    (hlt : (s.ioReg (timerPort i) 3).toNat < (s.ioReg (timerPort i) 2).toNat) :
    CountRun s i (fun k => s.ioReg (timerPort i) 3 + BitVec.ofNat 16 k)
      ((s.ioReg (timerPort i) 2).toNat - (s.ioReg (timerPort i) 3).toNat) where
  counts := hc
  start := by simpa using hinit
  next k := by rw [State.nextCount_setIo_of_up hm]; bv_omega
  reaches k hk := by rw [State.reaches_setIo_of_up hm]; bv_omega
  pos := by omega

/-- Down from INIT to CMP (R344). -/
theorem CountRun.of_down {s : State} {i : Fin 3} (hc : s.Counts i)
    (hinit : s.ioReg (timerPort i) 0 = s.ioReg (timerPort i) 3) (hm : (s.ioReg (timerPort i) 4).getLsbD 0 = true)
    (hlt : (s.ioReg (timerPort i) 2).toNat < (s.ioReg (timerPort i) 3).toNat) :
    CountRun s i (fun k => s.ioReg (timerPort i) 3 - BitVec.ofNat 16 k)
      ((s.ioReg (timerPort i) 3).toNat - (s.ioReg (timerPort i) 2).toNat) where
  counts := hc
  start := by simpa using hinit
  next k := by rw [State.nextCount_setIo_of_down hm]; bv_omega
  reaches k hk := by rw [State.reaches_setIo_of_down hm]; bv_omega
  pos := by omega

namespace CountRun

variable {s : State} {i : Fin 3} {c : Nat → Word} {d : Nat}

/-- Until the comparator is reached, counted ticks change nothing but COUNT (R341). -/
theorem afterTicks_eq (h : CountRun s i c d) {k : Nat} (hk : k < d) :
    s.afterTicks i k = s.setIo (timerPort i) 0 (c k) := by
  induction k with
  | zero => rw [← h.start, State.setIo_ioReg]; rfl
  | succ k ih =>
    have hcounts : (s.setIo (timerPort i) 0 (c k)).Counts i := (s.counts_setIo_count i (c k)).mpr h.counts
    have hnot : ¬ (s.setIo (timerPort i) 0 (c k)).Reaches i := mt (h.reaches k (by omega)).mp (by omega)
    rw [State.afterTicks_succ, ih (by omega), State.timerStep_of_not_reaches hcounts hnot, h.next, State.setIo_setIo]

/-- The tick that reaches the comparator reloads COUNT and raises the timer's line (R341, R343). -/
theorem afterTicks_last (h : CountRun s i c d) :
    s.afterTicks i d = (s.setIo (timerPort i) 0 (s.ioReg (timerPort i) 3)).raiseLine (timerLine i) := by
  obtain ⟨k, rfl⟩ : ∃ k, d = k + 1 := ⟨d - 1, by have := h.pos; omega⟩
  have hcounts : (s.setIo (timerPort i) 0 (c k)).Counts i := (s.counts_setIo_count i (c k)).mpr h.counts
  have hreaches : (s.setIo (timerPort i) 0 (c k)).Reaches i := (h.reaches k k.lt_succ_self).mpr rfl
  rw [State.afterTicks_succ, h.afterTicks_eq k.lt_succ_self, State.timerStep_of_reaches hcounts hreaches,
    State.setIo_setIo, State.ioReg_setIo_ne_reg s (by decide)]

/-- The run goes through its counts without a request, and its last tick reloads COUNT and requests the line if it is unmasked
(R344). -/
theorem period (h : CountRun s i c d) :
    (∀ k, k < d → (s.afterTicks i k).ioReg (timerPort i) 0 = c k ∧
      (s.afterTicks i k).ioReg picPort 2 = s.ioReg picPort 2) ∧
    (s.afterTicks i d).ioReg (timerPort i) 0 = s.ioReg (timerPort i) 3 ∧
    ((s.ioReg picPort 0).getLsbD (timerLine i) = false →
      ((s.afterTicks i d).ioReg picPort 2).getLsbD (timerLine i) = true) := by
  have hports := picPort_ne_timerPort i
  refine ⟨fun k hk => ?_, ?_, fun hm => ?_⟩
  · rw [h.afterTicks_eq hk]
    exact ⟨s.ioReg_setIo_same _ _ _, s.ioReg_setIo_ne_port hports _ _ _⟩
  · rw [h.afterTicks_last, State.ioReg_raiseLine _ _ fun e => hports e.1.symm, State.ioReg_setIo_same]
  · rw [h.afterTicks_last, State.irr_raiseLine]
    exact .inr ⟨rfl, by rw [State.ioReg_setIo_ne_port s hports, hm]⟩

end CountRun

end Sys2Proof.Machine
end

section
/-! PROOFS. The DMA engine: what its step does in each case, and what a copy leaves in memory (R350, R352, R353). -/

namespace Sys2Proof.Machine

/-! ## The copy -/

theorem addr_succ_add (a : Word) (k : Nat) : a + 1#16 + BitVec.ofNat 16 k = a + BitVec.ofNat 16 (k + 1) := by
  bv_omega

/-- The copy is the single byte copies in ascending order (R350, R353). -/
theorem State.dmaCopy_eq_foldl (s : State) (n : Nat) (src dst : Word) :
    s.dmaCopy n src dst = (List.range n).foldl
      (fun u k => u.memWrite8 (dst + BitVec.ofNat 16 k) (u.memRead8 (src + BitVec.ofNat 16 k))) s := by
  induction n generalizing s src dst with
  | zero => rfl
  | succ n ih =>
    rw [State.dmaCopy, ih, List.range_succ_eq_map, List.foldl_cons, List.foldl_map]
    simp only [addr_succ_add, BitVec.add_zero, Nat.succ_eq_add_one]

theorem State.sameHidden_dmaCopy (s : State) (n : Nat) (src dst : Word) : SameHidden s (s.dmaCopy n src dst) := by
  induction n generalizing s src dst with
  | zero => exact ⟨rfl, rfl, rfl, rfl, rfl⟩
  | succ n ih =>
    have hwrite : SameHidden s (s.memWrite8 dst (s.memRead8 src)) := by simp [SameHidden]
    exact hwrite.trans (ih _ _ _)

/-- An address that shares its location with no destination byte reads as before the copy (R353). -/
theorem State.memRead8_dmaCopy_of_ne {s : State} {n : Nat} {src dst b : Word}
    (h : ∀ j, j < n → s.translate (dst + BitVec.ofNat 16 j) ≠ s.translate b) :
    (s.dmaCopy n src dst).memRead8 b = s.memRead8 b := by
  induction n generalizing s src dst with
  | zero => rfl
  | succ n ih =>
    have hrest : ∀ j, j < n → (s.memWrite8 dst (s.memRead8 src)).translate (dst + 1#16 + BitVec.ofNat 16 j) ≠
        (s.memWrite8 dst (s.memRead8 src)).translate b := fun j hj => by
      simpa [addr_succ_add] using h (j + 1) (by omega)
    have hfirst : s.translate dst ≠ s.translate b := by simpa using h 0 (by omega)
    rw [State.dmaCopy, ih hrest, State.memRead8_memWrite8, if_neg (hfirst ·.1)]

/-- A byte copied to writable memory from outside the destination arrives: the 0x8000 destination bytes of the longest copy
differ in their offsets (R350, R352). -/
theorem State.memRead8_dmaCopy {s : State} {n : Nat} {src dst : Word} (hn : n ≤ 0x8000)
    (hw : ∀ j, j < n → s.canWrite (dst + BitVec.ofNat 16 j) = true)
    (hdis : ∀ j k, j < n → k < n → s.translate (dst + BitVec.ofNat 16 j) ≠ s.translate (src + BitVec.ofNat 16 k))
    {k : Nat} (hk : k < n) :
    (s.dmaCopy n src dst).memRead8 (dst + BitVec.ofNat 16 k) = s.memRead8 (src + BitVec.ofNat 16 k) := by
  induction n generalizing s src dst k with
  | zero => omega
  | succ n ih =>
    have hw0 : s.canWrite dst = true := by simpa using hw 0 (by omega)
    cases k with
    | zero =>
      have hlater : ∀ j, j < n → (s.memWrite8 dst (s.memRead8 src)).translate (dst + 1#16 + BitVec.ofNat 16 j) ≠
          (s.memWrite8 dst (s.memRead8 src)).translate dst := fun j hj =>
        State.translate_ne_of_offset_ne (by simpa using hw0) (by bv_omega)
      have harrives : (s.memWrite8 dst (s.memRead8 src)).memRead8 dst = s.memRead8 src := by
        rw [State.memRead8_memWrite8, if_pos ⟨rfl, hw0⟩]
      simpa [State.dmaCopy] using (State.memRead8_dmaCopy_of_ne hlater).trans harrives
    | succ k =>
      have hfirst : s.translate dst ≠ s.translate (src + BitVec.ofNat 16 (k + 1)) := by
        simpa using hdis 0 (k + 1) (by omega) hk
      have hrest := ih (s := s.memWrite8 dst (s.memRead8 src)) (src := src + 1#16) (dst := dst + 1#16) (by omega)
        (fun j hj => by simpa [addr_succ_add] using hw (j + 1) (by omega))
        (fun j k hj hk => by simpa [addr_succ_add] using hdis (j + 1) (k + 1) (by omega) (by omega))
        (show k < n by omega)
      rw [addr_succ_add, addr_succ_add] at hrest
      rw [State.dmaCopy, hrest, State.memRead8_memWrite8, if_neg (hfirst ·.1)]

/-! ## The step -/

theorem State.dmaStep_of_idle {s : State} (h : (s.ioReg dmaPort 3).getLsbD 0 = false) : s.dmaStep = s := by
  simp only [State.dmaStep, h, Bool.false_eq_true, if_false]

theorem State.dmaStep_of_rejected {s : State} (h : (s.ioReg dmaPort 3).getLsbD 0 = true)
    (hn : 0x8000 < (s.ioReg dmaPort 2).toNat) :
    s.dmaStep = (s.setIo dmaPort 4 0x0004).setIo dmaPort 3 (s.ioReg dmaPort 3 &&& 0xFFFE) := by
  rw [State.dmaStep, if_pos h]
  exact congrArg (State.setIo · dmaPort 3 _) (if_pos hn)

theorem State.dmaStep_of_accepted {s : State} (h : (s.ioReg dmaPort 3).getLsbD 0 = true)
    (hn : (s.ioReg dmaPort 2).toNat ≤ 0x8000) :
    s.dmaStep = s.dmaTransfer.setIo dmaPort 3 (s.ioReg dmaPort 3 &&& 0xFFFE) := by
  rw [State.dmaStep, if_pos h]
  exact congrArg (State.setIo · dmaPort 3 _) (if_neg (Nat.not_lt.mpr hn))

/-- The bytes the engine copies if it accepts the transfer (R350). -/
abbrev State.dmaCopied (s : State) : State :=
  s.dmaCopy (s.ioReg dmaPort 2).toNat (s.ioReg dmaPort 0) (s.ioReg dmaPort 1)

/-- An accepted transfer is the copy with DONE in STAT, and perhaps a raise (R350). -/
theorem State.dmaTransfer_cases (s : State) :
    s.dmaTransfer = s.dmaCopied.setIo dmaPort 4 0x0002 ∨
      s.dmaTransfer = (s.dmaCopied.setIo dmaPort 4 0x0002).raiseLine dmaLine := by
  unfold State.dmaTransfer
  dsimp only
  split
  · exact .inr rfl
  · exact .inl rfl

theorem State.onlyIo_dmaTransfer (s : State) : OnlyIo s.dmaCopied s.dmaTransfer := by
  obtain e | e := s.dmaTransfer_cases <;> rw [e]
  · exact State.onlyIo_setIo _ _ _ _
  · exact (State.onlyIo_setIo _ _ _ _).trans (State.onlyIo_raiseLine _ _)

theorem State.stat_dmaTransfer (s : State) : s.dmaTransfer.ioReg dmaPort 4 = 0x0002 := by
  obtain e | e := s.dmaTransfer_cases <;> rw [e]
  · exact State.ioReg_setIo_same _ _ _ _
  · rw [State.ioReg_raiseLine _ _ (by decide), State.ioReg_setIo_same]

/-- The step of an accepted transfer differs from the copy in I/O registers alone (R350). -/
theorem State.onlyIo_dmaStep_of_accepted {s : State} (h : (s.ioReg dmaPort 3).getLsbD 0 = true)
    (hn : (s.ioReg dmaPort 2).toNat ≤ 0x8000) : OnlyIo s.dmaCopied s.dmaStep := by
  rw [State.dmaStep_of_accepted h hn]
  exact s.onlyIo_dmaTransfer.trans (State.onlyIo_setIo _ _ _ _)

/-- After the step of an accepted transfer every address reads as after the copy. -/
theorem State.memRead8_dmaStep_of_accepted {s : State} (h : (s.ioReg dmaPort 3).getLsbD 0 = true)
    (hn : (s.ioReg dmaPort 2).toNat ≤ 0x8000) (a : Word) : s.dmaStep.memRead8 a = s.dmaCopied.memRead8 a := by
  obtain ⟨-, -, -, hbytes⟩ := State.onlyIo_dmaStep_of_accepted h hn
  exact State.memRead8_congr
    (((PeripheralFrame.dmaStep s).translate a).trans ((PeripheralFrame.dmaCopy s _ _ _).translate a).symm) hbytes

theorem State.stat_dmaStep_of_accepted {s : State} (h : (s.ioReg dmaPort 3).getLsbD 0 = true)
    (hn : (s.ioReg dmaPort 2).toNat ≤ 0x8000) : s.dmaStep.ioReg dmaPort 4 = 0x0002 := by
  rw [State.dmaStep_of_accepted h hn, State.ioReg_setIo_ne_reg _ (by decide), State.stat_dmaTransfer]

/-- A step with EN set leaves EN clear and the other bits of CTRL as they were (R350). -/
theorem State.ctrl_dmaStep {s : State} (h : (s.ioReg dmaPort 3).getLsbD 0 = true) :
    s.dmaStep.ioReg dmaPort 3 = s.ioReg dmaPort 3 &&& 0xFFFE := by
  rw [State.dmaStep, if_pos h]
  exact State.ioReg_setIo_same _ _ _ _

/-- EN is clear after every step of the engine (R350, R425). -/
theorem State.en_dmaStep (s : State) : (s.dmaStep.ioReg dmaPort 3).getLsbD 0 = false := by
  cases h : (s.ioReg dmaPort 3).getLsbD 0 with
  | false => rw [State.dmaStep_of_idle h, h]
  | true =>
    rw [State.ctrl_dmaStep h, BitVec.getLsbD_and]
    exact Bool.and_false _

end Sys2Proof.Machine
end

section
/-! PROOFS. The PIC: what its step does in each case (R323, R324, R325). -/

namespace Sys2Proof.Machine

/-! ## EOI -/

@[simp] theorem State.eoi_applyEoi (s : State) : s.applyEoi.ioReg picPort 3 = 0 :=
  State.ioReg_setIo_same _ _ _ _

@[simp] theorem State.isr_applyEoi (s : State) :
    s.applyEoi.ioReg picPort 1 = s.ioReg picPort 1 &&& ~~~(s.ioReg picPort 3) :=
  (State.ioReg_setIo_ne_reg _ (by decide) _ _).trans (s.ioReg_setIo_same _ _ _)

theorem State.ioReg_applyEoi (s : State) {r : IoIx} (h1 : r ≠ 1) (h3 : r ≠ 3) :
    s.applyEoi.ioReg picPort r = s.ioReg picPort r :=
  (State.ioReg_setIo_ne_reg _ h3 _ _).trans (s.ioReg_setIo_ne_reg h1 _ _)

theorem State.onlyIo_applyEoi (s : State) : OnlyIo s s.applyEoi :=
  (s.onlyIo_setIo _ _ _).trans (State.onlyIo_setIo _ _ _ _)

/-! ## The step -/

theorem State.picStep_cases (s : State) :
    s.picStep = s.applyEoi ∨ ∃ l, s.picStep = s.applyEoi.selectLine l := by
  unfold State.picStep
  dsimp only
  split
  · split
    · exact .inl rfl
    · exact .inr ⟨_, rfl⟩
  · exact .inl rfl

/-- While a line stays in service or no unmasked line is requested, the step only applies EOI (R324, R325). -/
theorem State.picStep_of_none {s : State} (h : s.ioReg picPort 1 &&& ~~~(s.ioReg picPort 3) ≠ 0 ∨
    s.ioReg picPort 2 &&& ~~~(s.ioReg picPort 0) = 0) : s.picStep = s.applyEoi := by
  have hnone : lowestLine 0 = none := by decide
  simp only [State.picStep, State.isr_applyEoi, s.ioReg_applyEoi (r := 0) (by decide) (by decide),
    s.ioReg_applyEoi (r := 2) (by decide) (by decide)]
  obtain h | h := h
  · rw [if_neg h]
  · rw [h, hnone, ite_self]

/-- With nothing left in service the step selects the lowest unmasked request (R324). -/
theorem State.picStep_of_lowest {s : State} {l : Fin 16} (hisr : s.ioReg picPort 1 &&& ~~~(s.ioReg picPort 3) = 0)
    (hl : (s.ioReg picPort 2 &&& ~~~(s.ioReg picPort 0)).getLsbD l = true)
    (hlowest : ∀ k : Fin 16, k < l → (s.ioReg picPort 2 &&& ~~~(s.ioReg picPort 0)).getLsbD k = false) :
    s.picStep = s.applyEoi.selectLine l := by
  have hsome := lowestLine_eq_some hl fun k hk => Bool.eq_false_iff.mp (hlowest k hk)
  simp only [State.picStep, State.isr_applyEoi, s.ioReg_applyEoi (r := 0) (by decide) (by decide),
    s.ioReg_applyEoi (r := 2) (by decide) (by decide), hisr, hsome, if_true]

@[simp] theorem State.eoi_selectLine (s : State) (l : Fin 16) : (s.selectLine l).ioReg picPort 3 = s.ioReg picPort 3 := by
  simp [State.selectLine]

/-- EOI is 0 after every PIC step (R323, R425). -/
theorem State.eoi_picStep (s : State) : s.picStep.ioReg picPort 3 = 0 := by
  obtain e | ⟨l, e⟩ := s.picStep_cases <;> simp [e]

@[simp] theorem State.byteAt_selectLine (s : State) (l : Fin 16) (k : Location) : (s.selectLine l).byteAt k = s.byteAt k := by
  simp [State.selectLine]

theorem State.sameBytes_picStep (s : State) : SameBytes s s.picStep := by
  have hbytes (k : Location) : s.picStep.byteAt k = s.byteAt k := by
    obtain ⟨-, -, -, heoi⟩ := s.onlyIo_applyEoi
    obtain e | ⟨l, e⟩ := s.picStep_cases <;> simp [e, heoi]
  exact ⟨hbytes, (PeripheralFrame.picStep s).memRead8 hbytes⟩

/-! ## A selection -/

/-- Line `l` alone is in service, no longer requested, and handed to the CPU with its vector, all else requested staying so:
`s` is the state before the PIC step (R324). -/
structure Selected (s t : State) (l : Fin 16) : Prop where
  isr : t.ioReg picPort 1 = BitVec.ofNat 16 (2 ^ l.val)
  irr : ∀ k : Fin 16, (t.ioReg picPort 2).getLsbD k = ((s.ioReg picPort 2).getLsbD k && decide (k ≠ l))
  irqPending : t.irqPending = true
  irqVector : t.irqVector = s.ioReg picPort 4 + BitVec.ofNat 16 l.val

/-- The tick has no part in a selection. -/
theorem Selected.setTick {s t : State} {l : Fin 16} (h : Selected s t l) (n : BitVec 32) : Selected s (t.setTick n) l :=
  ⟨h.isr, h.irr, h.irqPending, h.irqVector⟩

theorem State.selected_picStep {s : State} {l : Fin 16} (hisr : s.ioReg picPort 1 &&& ~~~(s.ioReg picPort 3) = 0)
    (hl : (s.ioReg picPort 2 &&& ~~~(s.ioReg picPort 0)).getLsbD l = true)
    (hlowest : ∀ k : Fin 16, k < l → (s.ioReg picPort 2 &&& ~~~(s.ioReg picPort 0)).getLsbD k = false) :
    Selected s s.picStep l := by
  rw [State.picStep_of_lowest hisr hl hlowest]
  refine ⟨?_, fun k => ?_, rfl, ?_⟩
  · have htwoPow : BitVec.twoPow 16 l = BitVec.ofNat 16 (2 ^ l.val) := BitVec.eq_of_toNat_eq (by simp)
    simp only [State.selectLine, State.ioReg_setIrq, State.ioReg_setIo_same, State.isr_applyEoi, hisr, ← htwoPow]
    exact BitVec.zero_or
  · have hne : (2 : IoIx) ≠ 1 := by decide
    simp only [State.selectLine, State.ioReg_setIrq, State.ioReg_setIo_ne_reg _ hne, State.ioReg_setIo_same,
      s.ioReg_applyEoi hne (show (2 : IoIx) ≠ 3 by decide), BitVec.getLsbD_and, BitVec.getLsbD_not, k.isLt,
      getLsbD_twoPow16, decide_true, Bool.true_and, decide_not]
  · simp [State.selectLine, s.ioReg_applyEoi (r := 4)]

end Sys2Proof.Machine
end

section
/-! PROOFS. The cycle of a running machine: what the interrupt entry before it writes (R330), the step that follows, and the
requests the PIC finds at its end (R301, R332). -/

namespace Sys2Proof.Machine

/-! ## The two pushes of interrupt entry -/

/-- An address that cannot be written reads as before, whatever byte is written anywhere (R63). -/
theorem State.memRead8_memWrite8_of_not_canWrite {s : State} {b : Word} (hb : s.canWrite b = false) (a : Word) (v : Byte) :
    (s.memWrite8 a v).memRead8 b = s.memRead8 b := by
  rw [State.memRead8_memWrite8, if_neg]
  rintro ⟨heq, ha⟩
  rw [State.canWrite, heq] at ha
  exact Bool.eq_false_iff.mp hb ha

theorem State.memRead8_push16_of_not_canWrite {s : State} {b : Word} (hb : s.canWrite b = false) (v : Word) :
    (s.push16 v).memRead8 b = s.memRead8 b := by
  have hmoved : (s.setSp (s.sp - 2#16)).canWrite b = false := hb
  rw [State.push16, State.memWrite16, State.memRead8_memWrite8_of_not_canWrite (by rwa [State.canWrite_memWrite8]),
    State.memRead8_memWrite8_of_not_canWrite hmoved, State.setSp_eq, State.memRead8_setReg]

/-- A byte stored before a push stays stored if its offset is that of neither pushed byte. -/
theorem ByteStored.push16 {s t : State} {b : Word} {v : Byte} (h : ByteStored s t b v)
    (h2 : (t.reg spIx - 2#16).toNat % 0x8000 ≠ b.toNat % 0x8000)
    (h1 : (t.reg spIx - 2#16 + 1#16).toNat % 0x8000 ≠ b.toNat % 0x8000) (w : Word) : ByteStored s (t.push16 w) b v := by
  unfold ByteStored
  cases hb : t.canWrite b with
  | false => rw [State.memRead8_push16_of_not_canWrite hb, h]
  | true => rw [State.memRead8_push16 hb h2 h1, h]

/-- A byte stored after a push is stored after the state before it too: an address that cannot be written reads the same in
both (R63). -/
theorem ByteStored.of_push16 {s t : State} {a w : Word} {v : Byte} (h : ByteStored (s.push16 w) t a v) :
    ByteStored s t a v := by
  unfold ByteStored at h ⊢
  rw [h, State.canWrite_push16]
  cases ha : s.canWrite a with
  | false => rw [State.memRead8_push16_of_not_canWrite ha]
  | true => rw [if_pos rfl, if_pos rfl]

theorem SameBytesBut.trans {as bs : List Word} {s t u : State} (ht : ∀ a, t.translate a = s.translate a)
    (h : SameBytesBut as s t) (h' : SameBytesBut bs t u) : SameBytesBut (as ++ bs) s u := by
  obtain ⟨hbytes, hreads⟩ := h
  obtain ⟨hbytes', hreads'⟩ := h'
  refine ⟨fun l hl => ?_, fun b hb => ?_⟩
  · exact (hbytes' l fun a ha => ht a ▸ hl a (List.mem_append_right _ ha)).trans
      (hbytes l fun a ha => hl a (List.mem_append_left _ ha))
  · exact (hreads' b fun a ha => ht a ▸ ht b ▸ hb a (List.mem_append_right _ ha)).trans
      (hreads b fun a ha => hb a (List.mem_append_left _ ha))

theorem SameBytesBut.mono {as bs : List Word} {s t : State} (h : SameBytesBut as s t) (hsub : as ⊆ bs) :
    SameBytesBut bs s t :=
  ⟨fun l hl => h.1 l fun a ha => hl a (hsub ha), fun b hb => h.2 b fun a ha => hb a (hsub ha)⟩

/-- Two pushes, one after another: the two cells below SP, and no other byte. -/
theorem State.push16_push16_spec (s : State) (v w : Word) :
    WordStored s ((s.push16 v).push16 w) (s.reg spIx - 2#16) v ∧
      WordStored s ((s.push16 v).push16 w) (s.reg spIx - 4#16) w ∧
      SameBytesBut [s.reg spIx - 1#16, s.reg spIx - 2#16, s.reg spIx - 3#16, s.reg spIx - 4#16] s
        ((s.push16 v).push16 w) := by
  obtain ⟨-, ⟨hlo, hhi⟩, -, -, -, -, hbytes⟩ := s.push16_spec v
  obtain ⟨-, ⟨hlo', hhi'⟩, -, -, -, -, hbytes'⟩ := (s.push16 v).push16_spec w
  have e1 : s.reg spIx - 2#16 + 1#16 = s.reg spIx - 1#16 := by bv_omega
  have e3 : s.reg spIx - 4#16 + 1#16 = s.reg spIx - 3#16 := by bv_omega
  have e4 : s.reg spIx - 2#16 - 2#16 = s.reg spIx - 4#16 := by bv_omega
  rw [State.reg_push16_sp, e4] at hlo' hhi' hbytes'
  have hsub : [s.reg spIx - 2#16, s.reg spIx - 1#16] ++ [s.reg spIx - 4#16, s.reg spIx - 3#16] ⊆
      [s.reg spIx - 1#16, s.reg spIx - 2#16, s.reg spIx - 3#16, s.reg spIx - 4#16] := by simp
  rw [e1] at hbytes
  rw [e3] at hbytes'
  refine ⟨⟨hlo.push16 ?_ ?_ w, hhi.push16 ?_ ?_ w⟩, ⟨hlo'.of_push16, hhi'.of_push16⟩,
    (hbytes.trans (s.translate_push16 v) hbytes').mono hsub⟩
  all_goals
    rw [State.reg_push16_sp]
    bv_omega

/-! ## The step -/

theorem exec_completes (i : Instr) (s : State) : Completes (exec i s) := by
  obtain ⟨t, ht, -⟩ := exec_reach i s
  exact ⟨t, ht⟩

theorem step_of_halted {s : State} (hs : s.halted = true) : step s = .next s := by
  simp [step, hs]

/-- A step of a machine that is not halted ends the cycle of the instruction's execute phase (R300). -/
theorem step_of_exec {s t : State} (hs : s.halted = false)
    (h : exec s.beginCycle.fetchDecode.1 s.beginCycle.fetchDecode.2 = .next t) : step s = .next t.endCycle := by
  simp only [step, hs, Bool.false_eq_true, if_false, h]

@[simp] theorem State.halted_interruptEntry (s : State) : s.interruptEntry.halted = s.halted := by
  simp [State.interruptEntry_eq]

/-- With an interrupt pending the step is the step of the state after the entry (R300, R330). -/
theorem step_interruptEntry {s : State} (hs : s.halted = false) (hp : s.irqPending = true) :
    step s = step s.interruptEntry := by
  have hentered : s.interruptEntry.beginCycle = s.interruptEntry := by
    simp [State.beginCycle, State.interruptEntry_eq]
  have hbegin : s.beginCycle = s.interruptEntry := if_pos hp
  simp only [step, State.halted_interruptEntry, hs, hentered, hbegin, Bool.false_eq_true, if_false]

/-! ## The end of the cycle -/

/-- The state the PIC step finds (R301). -/
abbrev State.beforePic (s : State) : State := (((s.timerStep 0).timerStep 1).timerStep 2).dmaStep

theorem State.endCycle_eq_picStep (s : State) : s.endCycle = s.beforePic.picStep.setTick (s.tick + 1#32) :=
  s.endCycle_eq

/-- Timers and DMA engine leave every PIC register but IRR (R341, R350). -/
theorem State.ioReg_pic_beforePic (s : State) {r : IoIx} (hr : r ≠ 2) :
    s.beforePic.ioReg picPort r = s.ioReg picPort r := by
  rw [State.ioReg_dmaStep _ (fun h => absurd h.1 (by decide)) (fun h => hr h.2)]
  simp only [State.ioReg_pic_timerStep _ _ hr]

/-- The unmasked requests the PIC step finds are the cycle's candidates (R332). -/
theorem State.candidate_iff_beforePic (s : State) (l : Fin 16) :
    (s.beforePic.ioReg picPort 2 &&& ~~~(s.beforePic.ioReg picPort 0)).getLsbD l = true ↔ Candidate s l := by
  rw [s.ioReg_pic_beforePic (r := 0) (by decide), ← s.irr_before_picStep l, BitVec.getLsbD_and, BitVec.getLsbD_not]
  simp only [l.isLt, decide_true, Bool.true_and, Bool.and_eq_true, Bool.not_eq_true']

/-- The cycle selects its lowest candidate, if nothing stays in service (R332, R324). -/
theorem State.selected_endCycle {s : State} {l : Fin 16} (hl : Candidate s l)
    (hlowest : ∀ k : Fin 16, k < l → ¬ Candidate s k) (hisr : s.ioReg picPort 1 &&& ~~~(s.ioReg picPort 3) = 0) :
    Selected s.beforePic s.endCycle l := by
  have hsel : Selected s.beforePic s.beforePic.picStep l := by
    refine State.selected_picStep ?_ ((s.candidate_iff_beforePic l).mpr hl) fun k hk => ?_
    · rw [s.ioReg_pic_beforePic (r := 1) (by decide), s.ioReg_pic_beforePic (r := 3) (by decide), hisr]
    · exact Bool.eq_false_iff.mpr (mt (s.candidate_iff_beforePic k).mp (hlowest k hk))
  rw [State.endCycle_eq_picStep]
  exact hsel.setTick _

end Sys2Proof.Machine
end

section
/-! PROOFS. The obligations of 60_exceptions.md. -/

namespace Sys2Proof.Machine

/-- Settles O39: every instruction completes, so every cycle does. -/
theorem everyStepCompletes : Obligations.EveryStepCompletes := by
  refine ⟨exec_completes, fun s => ?_⟩
  cases hs : s.halted with
  | true => exact ⟨s, step_of_halted hs⟩
  | false =>
    obtain ⟨t, ht⟩ := exec_completes s.beginCycle.fetchDecode.1 s.beginCycle.fetchDecode.2
    exact ⟨t.endCycle, step_of_exec hs ht⟩

/-- Settles O43: the engine clears EN in its step, which the PIC step leaves, and the PIC step clears EOI. -/
theorem eoiAndDmaEnableAreClearAfterEveryCycle : Obligations.EoiAndDmaEnableAreClearAfterEveryCycle := by
  intro s t hs h
  obtain ⟨hs', -⟩ | ⟨-, u, -, rfl⟩ := step_cases h
  · simp [hs] at hs'
  rw [State.endCycle_eq_picStep, State.ioReg_setTick, State.ioReg_setTick]
  refine ⟨State.eoi_picStep _, ?_⟩
  rw [State.ioReg_picStep _ (by decide)]
  exact State.en_dmaStep _

/-- Settles O44: the entry is two pushes and a jump, and is over before the cycle's fetch. -/
theorem interruptEntrySavesPcAndFlags : Obligations.InterruptEntrySavesPcAndFlags := by
  intro s
  refine ⟨?_, step_interruptEntry⟩
  obtain ⟨hpc, himage, hbytes, hreads⟩ := s.push16_push16_spec (s.reg pcIx) s.flags.image
  intro t
  have ht : t = _ := s.interruptEntry_eq
  refine ⟨s.reg_interruptEntry_sp, ?_, ?_, ?_, ?_, fun r hr => ?_, s.flags_interruptEntry,
    (UnmappedFrame.interruptEntry s).io, ?_, s.halted_interruptEntry, ?_, (UnmappedFrame.interruptEntry s).banks, ?_⟩
  · simp [ht]
  · simp [ht]
  · simpa [ht, WordStored, ByteStored] using hpc
  · change WordStored s t _ s.flags.image
    simpa [ht, WordStored, ByteStored] using himage
  · obtain ⟨hrpc, hrsp⟩ : r ≠ pcIx ∧ r ≠ spIx := by simpa using hr
    exact s.reg_interruptEntry_ne hrpc hrsp
  · simp [ht]
  · simp [ht]
  · exact ⟨fun l hl => by simpa [ht] using hbytes l hl, fun b hb => by simpa [ht] using hreads b hb⟩

/-- Settles O47, by the two cases of a PIC step. -/
theorem picSelectsTheLowestLineWhenNoneIsInService : Obligations.PicSelectsTheLowestLineWhenNoneIsInService := by
  intro s t isr cand
  have hframe : PeripheralFrame s t := .picStep s
  refine ⟨s.eoi_picStep, fun h => ?_, fun hisr l hl hlowest => ?_, fun p r h => s.ioReg_picStep h, hframe.reg,
    hframe.flags, hframe.halted, hframe.tick, hframe.banks, s.sameBytes_picStep⟩
  · have ht : t = s.applyEoi := State.picStep_of_none h
    rw [ht]
    exact ⟨s.isr_applyEoi, s.ioReg_applyEoi (by decide) (by decide), rfl, rfl⟩
  · have hsel : Selected s t l := State.selected_picStep hisr hl hlowest
    exact ⟨hsel.isr, hsel.irqPending, hsel.irqVector, hsel.irr⟩

/-- Settles O48: the end of the cycle selects the lowest candidate of the state after the execute phase. -/
theorem requestIsEnteredInTheNextCycle : Obligations.RequestIsEnteredInTheNextCycle := by
  intro s i e0 hs hfetch
  have hfetched := hfetch.fetchDecode_eq
  have he0 : s.beginCycle.fetchDecode.2 = e0 := congrArg Prod.snd hfetched
  obtain ⟨e, he⟩ := exec_completes i e0
  refine ⟨e, he, ?_, fun l hl hlowest hisr => ?_⟩
  · rintro x rfl
    obtain rfl : e0.setIo picPort 2 (e0.reg x) = e := Host.Outcome.next.inj he
    have hio : SameIo s e0 := he0 ▸ (UnmappedFrame.fetchDecode_beginCycle s).io
    refine ⟨e0.ioReg_setIo_same _ _ _, fun p r h => ?_⟩
    exact (State.ioReg_setIo _ _ _ _ _ _).trans ((if_neg h).trans (hio p r))
  · have hrunning : e0.halted = false := by simp [← he0, hs]
    have hhalt : e.endCycle.halted = true ↔ i = .halt := by
      rw [State.halted_endCycle]
      exact halted_of_exec_iff hrunning he
    obtain ⟨hisr', hirr, hpending, hvector⟩ := State.selected_endCycle hl hlowest hisr
    refine ⟨e.endCycle, step_of_exec hs (by rw [hfetched]; exact he), hpending, ?_, hisr', ?_, fun hi => ?_, fun hi => ?_⟩
    · rw [hvector, State.ioReg_pic_beforePic _ (r := 4) (by decide)]
      rfl
    · exact (hirr l).trans (by simp)
    · have hgoing : e.endCycle.halted = false := Bool.eq_false_iff.mpr (mt hhalt.mp hi)
      exact ⟨hgoing, step_interruptEntry hgoing hpending⟩
    · exact step_of_halted (hhalt.mpr hi)

/-- Settles O49, by the three cases of a timer step. -/
theorem timerStepCountsThenCompares : Obligations.TimerStepCountsThenCompares := by
  intro s i p t down count event
  have hirr (hc : s.Counts i) (k : Fin 16) : (t.ioReg 8 2).getLsbD k =
      ((s.ioReg 8 2).getLsbD k || decide (event ∧ k = p ∧ (s.ioReg 8 0).getLsbD k = false)) := by
    rw [Bool.eq_iff_iff, Bool.or_eq_true, decide_eq_true_eq]
    refine (s.irr_timerStep i k).trans (or_congr_right ?_)
    rw [timerEvent_iff, and_iff_right hc]
    exact and_left_comm
  refine ⟨State.timerStep_of_not_counts, fun hc => ⟨?_, hirr hc, fun q r hq h8 => s.ioReg_timerStep i hq h8,
    s.onlyIo_timerStep i, ?_⟩⟩
  · exact State.count_timerStep hc
  · obtain ⟨-, -, -, hbytes⟩ := s.onlyIo_timerStep i
    exact (PeripheralFrame.timerStep s i).memRead8 hbytes

/-- Settles O50: from INIT the count runs up or down to the comparator, which the last counted tick reaches. -/
theorem timerPeriodIsTheDistanceToTheComparator : Obligations.TimerPeriodIsTheDistanceToTheComparator := by
  intro s i p init cmp after hc hinit
  refine ⟨fun hm hlt => ?_, fun hm hlt => ?_⟩
  · have hval (k : Nat) (hk : k < cmp - init) : (s.ioReg p 3 + BitVec.ofNat 16 k).toNat = init + k := by bv_omega
    obtain ⟨hrun, hlast, hline⟩ := (CountRun.of_up hc hinit hm hlt).period
    exact ⟨fun k hk => ⟨(congrArg BitVec.toNat (hrun k hk).1).trans (hval k hk), (hrun k hk).2⟩, hlast, hline⟩
  · have hval (k : Nat) (hk : k < init - cmp) : (s.ioReg p 3 - BitVec.ofNat 16 k).toNat = init - k := by bv_omega
    obtain ⟨hrun, hlast, hline⟩ := (CountRun.of_down hc hinit hm hlt).period
    exact ⟨fun k hk => ⟨(congrArg BitVec.toNat (hrun k hk).1).trans (hval k hk), (hrun k hk).2⟩, hlast, hline⟩

/-- Settles O52: the step is the copy and then writes of I/O registers. -/
theorem dmaCopiesBytewiseAscending : Obligations.DmaCopiesBytewiseAscending := by
  intro s
  refine ⟨State.dmaStep_of_idle, fun hen hn => ?_⟩
  rw [← State.dmaCopy_eq_foldl]
  obtain ⟨-, -, hhidden, hbytes⟩ := State.onlyIo_dmaStep_of_accepted hen hn
  refine ⟨hbytes, State.memRead8_dmaStep_of_accepted hen hn, State.stat_dmaStep_of_accepted hen hn,
    State.ctrl_dmaStep hen, fun k => ?_, fun p r h h' => s.ioReg_dmaStep h h', (PeripheralFrame.dmaStep s).reg,
    (PeripheralFrame.dmaStep s).flags, (s.sameHidden_dmaCopy _ _ _).trans hhidden⟩
  rw [Bool.eq_iff_iff, Bool.or_eq_true, decide_eq_true_eq]
  refine (s.irr_dmaStep k).trans (or_congr_right (and_congr_right ?_))
  rintro rfl
  exact and_congr_left' ⟨fun h => h.2.1, fun h => ⟨hen, h, hn⟩⟩

/-- Settles O53: no source byte is overwritten and no destination byte is written twice. -/
theorem dmaCopyOfDisjointRanges : Obligations.DmaCopyOfDisjointRanges := by
  intro s hen hn hwritable hdisjoint k hk
  rw [State.memRead8_dmaStep_of_accepted hen hn]
  exact State.memRead8_dmaCopy hn hwritable hdisjoint hk

/-- Settles O51, by the count: rejected, only CTRL and STAT change; accepted, STAT says done. -/
theorem dmaRejectsCountsAboveTheCeiling : Obligations.DmaRejectsCountsAboveTheCeiling := by
  intro s hen
  refine ⟨fun hn => ?_, State.stat_dmaStep_of_accepted hen⟩
  have hstep := State.dmaStep_of_rejected hen hn
  have honly : OnlyIo s s.dmaStep := by
    rw [hstep]
    exact (s.onlyIo_setIo _ _ _).trans (State.onlyIo_setIo _ _ _ _)
  have ⟨_, _, _, hbytes⟩ := honly
  refine ⟨?_, State.ctrl_dmaStep hen, fun p r h => ?_, honly, (PeripheralFrame.dmaStep s).memRead8 hbytes⟩
  · rw [hstep]
    exact (State.ioReg_setIo_ne_reg _ (by decide) _ _).trans (s.ioReg_setIo_same _ _ _)
  · rw [hstep, State.ioReg_setIo, if_neg fun e => h ⟨e.1, .inl e.2⟩, State.ioReg_setIo,
      if_neg fun e => h ⟨e.1, .inr e.2⟩]

/-- Settles O46, by the mask. -/
theorem maskedRaisesAreLost : Obligations.MaskedRaisesAreLost := by
  intro s l
  refine ⟨State.raiseLine_of_masked, fun hmask => ⟨fun k => ?_, fun p r h => s.ioReg_raiseLine l h,
    s.onlyIo_raiseLine l, State.raiseLine_of_requested⟩⟩
  rw [Bool.eq_iff_iff, Bool.or_eq_true, decide_eq_true_eq, or_comm]
  refine (s.irr_raiseLine l k).trans (or_congr_right (and_iff_left_of_imp ?_))
  rintro rfl
  exact hmask

end Sys2Proof.Machine
end

section
/-! PROOFS. The state after power-on and what the host does between cycles (R400, R403, R430). -/

namespace Sys2Proof.Machine

@[simp] theorem State.reg_powerOn (b : BankCounts) (rom disk : Memory) (r : RegIx) : (State.powerOn b rom disk).reg r = 0 :=
  Vector.getElem_replicate _

/-- The I/O registers after reset: HI_KIND and IMR have their values, all others are 0 (R400). -/
theorem State.ioReg_powerOn (b : BankCounts) (rom disk : Memory) (p r : IoIx) :
    (State.powerOn b rom disk).ioReg p r =
      if p = mmuPort ∧ r = 2 then 0x0002 else if p = picPort ∧ r = 0 then 0xFFFF else 0 := by
  change ioAfterReset[p][r] = _
  revert p r
  decide

@[simp] theorem State.byteAt_powerOn_ram (b : BankCounts) (rom disk : Memory) (bank : Nat) (o : BitVec 15) :
    (State.powerOn b rom disk).byteAt ⟨.ram, bank, o⟩ = 0 :=
  rfl

theorem State.wf_powerOn {b : BankCounts} {rom disk : Memory} (hb : b.wf) (hrom : rom.wf) (hrom' : rom.within b.rom)
    (hdisk : disk.wf) (hdisk' : disk.within b.disk) : (State.powerOn b rom disk).wf :=
  ⟨hb, ⟨hrom, hrom'⟩, ⟨hdisk, hdisk'⟩, Memory.wf_nil b.ram⟩

/-- A later reset keeps every byte of every store (R403). -/
theorem State.byteAt_reapplyReset (s : State) (l : Location) : s.reapplyReset.byteAt l = s.byteAt l := by
  obtain ⟨kind, bank, o⟩ := l
  cases kind <;> rfl

theorem State.onlyIo_injectScancode (s : State) (c : Word) : OnlyIo s (s.injectScancode c) :=
  (s.onlyIo_setIo _ _ _).trans (State.onlyIo_setIo _ _ _ _)

theorem State.kbdCode_injectScancode (s : State) (c : Word) : (s.injectScancode c).ioReg kbdPort 0 = c :=
  (State.ioReg_setIo_ne_reg _ (by decide) _ _).trans (s.ioReg_setIo_same _ _ _)

end Sys2Proof.Machine
end

section
/-! PROOFS. The obligations of 70_reset_and_hazards.md. -/

namespace Sys2Proof.Machine

/-- Settles O38: empty stores and canonical images in at least one bank each meet the invariant. -/
theorem resetMeetsTheInvariant : Obligations.ResetMeetsTheInvariant := by
  refine ⟨?_, fun b rom disk hb hrom hrom' hdisk hdisk' => State.wf_powerOn hb hrom hrom' hdisk hdisk'⟩
  obtain ⟨hwf, hwithin⟩ := Memory.wf_nil BankCounts.testVectors.rom
  obtain ⟨-, hwithin'⟩ := Memory.wf_nil BankCounts.testVectors.disk
  exact State.wf_powerOn (by decide) hwf hwithin hwf hwithin'

/-- Settles O57: the register file, the I/O registers and RAM of power-on. -/
theorem resetValuesAreThoseOfTheSpec : Obligations.ResetValuesAreThoseOfTheSpec := by
  refine ⟨fun b rom disk => ?_, _, _, _, rfl⟩
  intro s
  have hio := State.ioReg_powerOn b rom disk
  refine ⟨State.reg_powerOn b rom disk, rfl, rfl, rfl, rfl, rfl, (hio 0 2).trans rfl, (hio 8 0).trans rfl,
    fun p r h2 h0 => ?_, State.byteAt_powerOn_ram b rom disk, rfl, rfl, rfl⟩
  exact (hio p r).trans ((if_neg h2).trans (if_neg h0))

/-- Settles O58: the registers of a later reset are those of power-on, its stores those of before. -/
theorem laterResetKeepsMemory : Obligations.LaterResetKeepsMemory := by
  refine ⟨fun s b rom disk => ?_, fun b rom disk bank o => ⟨State.byteAt_powerOn_ram b rom disk bank o, rfl, rfl⟩⟩
  exact ⟨fun _ => rfl, rfl, rfl, rfl, rfl, rfl, fun _ _ => rfl, s.byteAt_reapplyReset, rfl⟩

/-- Settles O59: an injection is two writes of port 1. -/
theorem injectedScancodesOverwriteTheLast : Obligations.InjectedScancodesOverwriteTheLast := by
  intro s c c' t
  have hport : kbdPort ≠ mmuPort := by decide
  refine ⟨s.kbdCode_injectScancode c, State.ioReg_setIo_same _ _ _ _, fun p r h => ?_, s.onlyIo_injectScancode c,
    fun a => ?_, t.kbdCode_injectScancode c'⟩
  · have h0 : ¬(p = kbdPort ∧ r = 0) := fun ⟨hp, hr⟩ => h ⟨hp, .inl hr⟩
    have h1 : ¬(p = kbdPort ∧ r = 1) := fun ⟨hp, hr⟩ => h ⟨hp, .inr hr⟩
    exact (State.ioReg_setIo _ _ _ _ _ _).trans ((if_neg h1).trans ((s.ioReg_setIo _ _ _ _ _).trans (if_neg h0)))
  · exact (State.memRead8_setIo _ hport _ _ a).trans (s.memRead8_setIo hport _ _ a)

end Sys2Proof.Machine
end
